-- ==== Sys2Proof/Word.lean ====
section
/-! DEFINITION. The byte, the host command word, and their plainest arithmetic (spec/00_scope.md R6, R13). -/

namespace Sys2Proof

/-- A byte: 8 bits, unsigned, bit 7 the most significant (R6). -/
abbrev Byte := BitVec 8

/-- A host command word: 32 bits, bit 31 the most significant (R93). -/
abbrev CommandWord := BitVec 32

/-- `BIT(i)`: the byte `1 << i`, for i in 0..7 (R6). -/
def bitAt (i : Nat) : Byte := 1#8 <<< i

/-- `a AND NOT m`, within 8 bits (R6). -/
def clearBits (a m : Byte) : Byte := a &&& ~~~m

end Sys2Proof
end

