-- ==== Sys2Proof/Config.lean ====
section
/-! DEFINITION. The named parameters of spec/00_scope.md R5 as ONE record of plain data, the requirements the spec puts
on them, the pin events of R8, and the free values (constants with no body).
The defaults of R5 are in Sys2Proof/Machine/Params.lean. -/

namespace Sys2Proof

/-- Direction of a transaction (R123, R96). The reserved code 3 is no direction. -/
inductive Dir where
  | send
  | recv
  | duplex
deriving DecidableEq, Repr

/-- The three configured data rates (R34). -/
inductive DataRate where
  | dr1M
  | dr2M
  | dr250K
deriving DecidableEq, Repr

/-- The four configured output powers, in the order the host encoding numbers them (R35). -/
inductive TxPower where
  | pwr0
  | pwr1
  | pwr2
  | pwr3
deriving DecidableEq, Repr

/-- What a `WAIT` event is a lower bound of: a delay in milliseconds (R162), or one of the small chip-select delays,
whose unit the spec does not give (R244). -/
inductive Duration where
  | ms (n : Nat)
  | chipSelect (t : Nat)
deriving DecidableEq, Repr

/-- The observable events at the pins (R8). -/
inductive Event where
  /-- `CSN(level)`: chip-select driven to `level` (false is low, asserted). -/
  | csn (level : Bool)
  /-- `XFER(m, s)`: one byte exchanged, MOSI byte `m`, MISO byte `s`. -/
  | xfer (mosi miso : Byte)
  /-- `CE(level)`: the enable line driven to `level`. -/
  | ce (level : Bool)
  /-- `WAIT(t)`: at least `t` elapses with no pin change. -/
  | wait (t : Duration)
deriving DecidableEq, Repr

/-- `PWR_MAP`: the "four fixed mappings" of output power to a 2-bit field (R5, R95 e). -/
structure PowerMap where
  pwr0 : BitVec 2
  pwr1 : BitVec 2
  pwr2 : BitVec 2
  pwr3 : BitVec 2
deriving DecidableEq, Repr

/-- Which bit of a byte goes over the serial line first (BIT_ORDER of R5). -/
inductive BitOrder where
  | msbFirst
  | lsbFirst
deriving DecidableEq, Repr

/-- Every named parameter of R5. -/
structure Config where
  /- Structural parameters. -/
  maxPayload : Byte
  minPayload : Byte
  bufSize : Nat
  addrLen : Nat
  nPipes : Nat
  chMax : Byte
  chFallback : Byte
  chSentinel : Byte
  retxMask : Byte
  /- Wire command bytes. -/
  opcRRegister : Byte
  opcWRegister : Byte
  addrMask : Byte
  opcRRxPayload : Byte
  opcWTxPayload : Byte
  opcFlushTx : Byte
  opcFlushRx : Byte
  opcNop : Byte
  dummyByte : Byte
  /- Slave register addresses. -/
  regConfig : Byte
  regSetupRetr : Byte
  regRfCh : Byte
  regRfSetup : Byte
  regStatus : Byte
  regObserveTx : Byte
  regRxAddrP0 : Byte
  regTxAddr : Byte
  regRxPw : List Byte
  regFifoStatus : Byte
  regDynpd : Byte
  regFeature : Byte
  /- Bit positions. -/
  bitRxDr : Nat
  bitTxDs : Nat
  bitMaxRt : Nat
  pipeHi : Nat
  pipeLo : Nat
  bitEnCrc : Nat
  bitPwrUp : Nat
  bitPrimRx : Nat
  bitRfDrHigh : Nat
  bitRfDrLow : Nat
  rfPwrLo : Nat
  bitRxEmpty : Nat
  /- Register values the sequence layer writes. -/
  cfgCrc : Byte
  cfgBase : Byte
  cfgTx : Byte
  cfgRx : Byte
  retrValue : Byte
  dynpdOff : Byte
  featureOff : Byte
  clrAll : Byte
  clrRxDr : Byte
  pwrMap : PowerMap
  initDataRate : DataRate
  initTxPower : TxPower
  /- Timing parameters: lower bounds, read by no rule's result (R244 to R247). -/
  tCsSetup : Nat
  tCsHold : Nat
  tCsIdle : Nat
  tSettleMs : Nat
  tDwellMs : Nat
  /- Serial clocking: below one byte exchange, where the spec models nothing, so no rule reads them (R4 f, R56). -/
  spiMode : Fin 4
  bitOrder : BitOrder
  /-- F_SCK in hertz; `none` where it is OPEN, no rate being chosen (R5, D1). -/
  fSck : Option Nat
  /- Whether the controller executes the nine pseudo-instructions itself (R104). -/
  seqPresent : Bool
deriving DecidableEq, Repr

/-- The register addresses of R63, in the table's order. -/
def Config.regAddrs (c : Config) : List Byte :=
  [c.regConfig, c.regSetupRetr, c.regRfCh, c.regRfSetup, c.regStatus, c.regObserveTx, c.regRxAddrP0, c.regTxAddr] ++
    c.regRxPw ++ [c.regFifoStatus, c.regDynpd, c.regFeature]

/-- The five wire command bytes that carry no address (R91). -/
def Config.fixedCommands (c : Config) : List Byte :=
  [c.opcRRxPayload, c.opcWTxPayload, c.opcFlushTx, c.opcFlushRx, c.opcNop]

/-- What the spec requires of any choice of the parameters. Each field cites its rule. -/
structure Config.Ok (c : Config) : Prop where
  /-- R32, R41: every clamped size is at least MIN_PAYLOAD, and R203 (f) refuses 0 only. -/
  minPayload_one : c.minPayload = 1#8
  /-- R32: "1 to 32". -/
  maxPayload_pos : 1 ≤ c.maxPayload.toNat
  /-- R20: PAYLOAD_SIZE is a 6-bit register. -/
  maxPayload_width : c.maxPayload.toNat < 64
  /-- R5: BUF_SIZE is "sized to MAX_PAYLOAD". -/
  payload_fits : c.maxPayload.toNat ≤ c.bufSize
  /-- R93: an index or a length is an 8-bit field. -/
  bufSize_width : c.bufSize < 256
  /-- R173: a pipe address comes from BUF. -/
  addr_fits : c.addrLen ≤ c.bufSize
  /-- R5: one width register per pipe. -/
  pipes : c.regRxPw.length = c.nPipes
  /-- R33, D16: the sentinel lies outside 0..CH_MAX. -/
  sentinel_outside : c.chMax < c.chSentinel
  /-- R155: the count is 0..15. -/
  retx_width : c.retxMask.toNat ≤ 15
  /-- R91: the OR does not lose the address. -/
  read_clear : c.opcRRegister &&& c.addrMask = 0#8
  write_clear : c.opcWRegister &&& c.addrMask = 0#8
  /-- R91: the seven command bytes are pairwise different, for every address within ADDR_MASK. -/
  read_ne_write : c.opcRRegister ≠ c.opcWRegister
  fixed_nodup : c.fixedCommands.Nodup
  fixed_not_register : ∀ b ∈ c.fixedCommands,
    clearBits b c.addrMask ≠ c.opcRRegister ∧ clearBits b c.addrMask ≠ c.opcWRegister
  /-- R63: distinct addresses within ADDR_MASK. -/
  regs_nodup : c.regAddrs.Nodup
  regs_in_mask : ∀ a ∈ c.regAddrs, clearBits a c.addrMask = 0#8
  /-- R6, R150: positions inside a byte. -/
  bits_in_byte : ∀ i ∈ [c.bitRxDr, c.bitTxDs, c.bitMaxRt, c.pipeHi, c.bitEnCrc, c.bitPwrUp, c.bitPrimRx,
    c.bitRfDrHigh, c.bitRfDrLow, c.rfPwrLo + 1, c.bitRxEmpty], i < 8
  pipe_field : c.pipeLo ≤ c.pipeHi
  /-- R29: three different flags. -/
  flags_nodup : [c.bitRxDr, c.bitTxDs, c.bitMaxRt].Nodup
  /-- R63: three different bits of REG_CONFIG. -/
  config_bits_nodup : [c.bitEnCrc, c.bitPwrUp, c.bitPrimRx].Nodup
  /-- R95 e: "2 Mbps sets one bit, 250 kbps sets a different bit". -/
  rate_bits : c.bitRfDrHigh ≠ c.bitRfDrLow
  /-- R5: CFG_CRC enables CRC, and every configuration value the sequences write keeps its bits. -/
  crc_enabled : c.cfgCrc.getLsbD c.bitEnCrc = true
  crc_kept : ∀ v ∈ [c.cfgBase, c.cfgTx, c.cfgRx], v &&& c.cfgCrc = c.cfgCrc
  /-- R181: CFG_TX has the power-up bit 1 and the primary-receive bit 0. -/
  cfgTx_role : c.cfgTx.getLsbD c.bitPwrUp = true ∧ c.cfgTx.getLsbD c.bitPrimRx = false
  /-- R183: CFG_RX has both bits 1. -/
  cfgRx_role : c.cfgRx.getLsbD c.bitPwrUp = true ∧ c.cfgRx.getLsbD c.bitPrimRx = true
  /-- R5: the mask of the latched bits, and the data-ready bit alone. -/
  clrAll_mask : c.clrAll = bitAt c.bitRxDr ||| bitAt c.bitTxDs ||| bitAt c.bitMaxRt
  clrRxDr_mask : c.clrRxDr = bitAt c.bitRxDr

/-- FREE VALUE. The MISO byte that an unknown slave answers with (R62: "a `draw(8)` from an oracle that may see the whole
history"): a function of which slave it is, of every event so far and of the MOSI byte of the same exchange. -/
opaque Config.misoByte (slave : Nat) (history : List Event) (mosi : Byte) : Byte

/-- FREE VALUE. What a read of a data-buffer byte that nothing has written yields (R26, D11): a fresh value at each read,
so a function of the read's number, of the index read and of the events so far. -/
opaque Config.unwrittenByte (history : List Event) (draw index : Nat) : Byte

/-- FREE VALUE. What a read of STATUS_LATCH yields while STATUS_VALID = 0: at the status port (R28), and at
the decoder outputs (R156). -/
opaque Config.invalidStatus (history : List Event) (draw : Nat) : Byte

end Sys2Proof
end

