-- ==== Sys2Proof/Syntax.lean ====
section
/-! DEFINITION. The command set of spec/30_encoding.md R97: one constructor per row of spec/opcode_table.json, each operand
with the width R94 gives it. -/

namespace Sys2Proof

/-- The 28 commands of R97. An operand whose field has a reserved code is an `Option`; `none` is the reserved code 3
(R96, R99), which selects the command and is refused when it is executed. -/
inductive Instr where
  | transact (commandByte length : Byte) (dir : Option Dir)
  | getStatus
  | readReg (addr : Byte)
  | writeReg (addr value : Byte)
  | readRegMulti (addr count : Byte)
  | writeRegMulti (addr count : Byte)
  | readBit (addr : Byte) (bitIndex : BitVec 3)
  | writeBit (addr : Byte) (bitIndex : BitVec 3) (value : Bool)
  | writeTxPayload
  | readRxPayload
  | flushTx
  | flushRx
  | getTxStatus
  | isDataReady
  | getRetxCount
  | ceSet (level : Bool)
  | delayMs (ms : BitVec 16)
  | bufWrite (index value : Byte)
  | bufRead (index : Byte)
  | initController (channel payloadSize : Byte)
  | setChannel (channel : Byte)
  | setAddress (isOwnAddress : Bool)
  | setRfParameters (dataRate : Option DataRate) (outputPower : TxPower)
  | powerUpTx
  | transmit
  | powerUpRx
  | getPayload
  | powerDown
deriving DecidableEq, Repr

end Sys2Proof
end

