-- ==== Sys2Proof/Decode.lean ====
section
/-! DEFINITION. The host command word of spec/30_encoding.md R93, R94 and R96: the decoder, total on the 2^32 words, and the
encoder, both written from R97's table. -/

namespace Sys2Proof

/-- Why a word selects no command: its HOP is not one of the 28 of R97 (R98). -/
inductive DecodeError where
  | reservedHop (hop : Byte)
deriving DecidableEq, Repr

/-- Bits 31:24 of the word (R93). -/
def hopField (w : CommandWord) : Byte := w.extractLsb' 24 8
/-- Bits 23:16, the first operand (R93). -/
def aField (w : CommandWord) : Byte := w.extractLsb' 16 8
/-- Bits 15:8, the second operand (R93). -/
def bField (w : CommandWord) : Byte := w.extractLsb' 8 8
/-- Bits 7:0, the third operand (R93). -/
def cField (w : CommandWord) : Byte := w.extractLsb' 0 8

/-- The word of four byte fields (R93). -/
def packWord (hop a b c : Byte) : CommandWord := hop ++ a ++ b ++ c

/-- R96: `dir` 0 = SEND, 1 = RECV, 2 = DUPLEX, 3 reserved. -/
def dirOfCode (k : BitVec 2) : Option Dir :=
  match k.toNat with
  | 0 => some .send
  | 1 => some .recv
  | 2 => some .duplex
  | _ => none

/-- The inverse of `dirOfCode`. -/
def dirCode : Option Dir → BitVec 2
  | some .send => 0#2
  | some .recv => 1#2
  | some .duplex => 2#2
  | none => 3#2

/-- R96: `dataRate` 0 = DR_1M, 1 = DR_2M, 2 = DR_250K, 3 reserved. -/
def dataRateOfCode (k : BitVec 2) : Option DataRate :=
  match k.toNat with
  | 0 => some .dr1M
  | 1 => some .dr2M
  | 2 => some .dr250K
  | _ => none

/-- The inverse of `dataRateOfCode`. -/
def dataRateCode : Option DataRate → BitVec 2
  | some .dr1M => 0#2
  | some .dr2M => 1#2
  | some .dr250K => 2#2
  | none => 3#2

/-- R96: `outputPower` k = PWR_k. -/
def txPowerOfCode (k : BitVec 2) : TxPower :=
  match k.toNat with
  | 0 => .pwr0
  | 1 => .pwr1
  | 2 => .pwr2
  | _ => .pwr3

/-- The inverse of `txPowerOfCode`. -/
def txPowerCode : TxPower → BitVec 2
  | .pwr0 => 0#2
  | .pwr1 => 1#2
  | .pwr2 => 2#2
  | .pwr3 => 3#2

/-- The decoder (R93, R94, R97): HOP alone selects the command, and every bit the command does not use is ignored. -/
def decode (w : CommandWord) : Except DecodeError Instr :=
  let a := aField w
  let b := bField w
  let c := cField w
  match (hopField w).toNat with
  | 0x01 => .ok (.transact a b (dirOfCode (c.extractLsb' 0 2)))
  | 0x02 => .ok .getStatus
  | 0x10 => .ok (.readReg a)
  | 0x11 => .ok (.writeReg a b)
  | 0x12 => .ok (.readRegMulti a b)
  | 0x13 => .ok (.writeRegMulti a b)
  | 0x14 => .ok (.readBit a (b.extractLsb' 0 3))
  | 0x15 => .ok (.writeBit a (b.extractLsb' 0 3) (c.getLsbD 0))
  | 0x20 => .ok .writeTxPayload
  | 0x21 => .ok .readRxPayload
  | 0x22 => .ok .flushTx
  | 0x23 => .ok .flushRx
  | 0x30 => .ok .getTxStatus
  | 0x31 => .ok .isDataReady
  | 0x32 => .ok .getRetxCount
  | 0x40 => .ok (.ceSet (c.getLsbD 0))
  | 0x41 => .ok (.delayMs (b ++ c))
  | 0x42 => .ok (.bufWrite a b)
  | 0x43 => .ok (.bufRead a)
  | 0x50 => .ok (.initController a b)
  | 0x51 => .ok (.setChannel a)
  | 0x52 => .ok (.setAddress (c.getLsbD 0))
  | 0x53 => .ok (.setRfParameters (dataRateOfCode (a.extractLsb' 0 2)) (txPowerOfCode (b.extractLsb' 0 2)))
  | 0x60 => .ok .powerUpTx
  | 0x61 => .ok .transmit
  | 0x62 => .ok .powerUpRx
  | 0x63 => .ok .getPayload
  | 0x64 => .ok .powerDown
  | _ => .error (.reservedHop (hopField w))

/-- The HOP column of R97. -/
def Instr.hop : Instr → Byte
  | .transact _ _ _ => 0x01#8
  | .getStatus => 0x02#8
  | .readReg _ => 0x10#8
  | .writeReg _ _ => 0x11#8
  | .readRegMulti _ _ => 0x12#8
  | .writeRegMulti _ _ => 0x13#8
  | .readBit _ _ => 0x14#8
  | .writeBit _ _ _ => 0x15#8
  | .writeTxPayload => 0x20#8
  | .readRxPayload => 0x21#8
  | .flushTx => 0x22#8
  | .flushRx => 0x23#8
  | .getTxStatus => 0x30#8
  | .isDataReady => 0x31#8
  | .getRetxCount => 0x32#8
  | .ceSet _ => 0x40#8
  | .delayMs _ => 0x41#8
  | .bufWrite _ _ => 0x42#8
  | .bufRead _ => 0x43#8
  | .initController _ _ => 0x50#8
  | .setChannel _ => 0x51#8
  | .setAddress _ => 0x52#8
  | .setRfParameters _ _ => 0x53#8
  | .powerUpTx => 0x60#8
  | .transmit => 0x61#8
  | .powerUpRx => 0x62#8
  | .getPayload => 0x63#8
  | .powerDown => 0x64#8

/-- A one-bit operand in bit 0 of its field (R94). -/
def boolField (v : Bool) : Byte := (BitVec.ofBool v).setWidth 8

/-- The operand fields A, B and C of a command (R94). Bits it does not use are written 0, as R93 asks. -/
def Instr.fields : Instr → Byte × Byte × Byte
  | .transact commandByte length dir => (commandByte, length, (dirCode dir).setWidth 8)
  | .readReg addr => (addr, 0#8, 0#8)
  | .writeReg addr value => (addr, value, 0#8)
  | .readRegMulti addr count => (addr, count, 0#8)
  | .writeRegMulti addr count => (addr, count, 0#8)
  | .readBit addr bitIndex => (addr, bitIndex.setWidth 8, 0#8)
  | .writeBit addr bitIndex value => (addr, bitIndex.setWidth 8, boolField value)
  | .ceSet level => (0#8, 0#8, boolField level)
  | .delayMs ms => (0#8, ms.extractLsb' 8 8, ms.extractLsb' 0 8)
  | .bufWrite index value => (index, value, 0#8)
  | .bufRead index => (index, 0#8, 0#8)
  | .initController channel payloadSize => (channel, payloadSize, 0#8)
  | .setChannel channel => (channel, 0#8, 0#8)
  | .setAddress isOwnAddress => (0#8, 0#8, boolField isOwnAddress)
  | .setRfParameters dataRate outputPower =>
    ((dataRateCode dataRate).setWidth 8, (txPowerCode outputPower).setWidth 8, 0#8)
  | .getStatus | .writeTxPayload | .readRxPayload | .flushTx | .flushRx => (0#8, 0#8, 0#8)
  | .getTxStatus | .isDataReady | .getRetxCount => (0#8, 0#8, 0#8)
  | .powerUpTx | .transmit | .powerUpRx | .getPayload | .powerDown => (0#8, 0#8, 0#8)

/-- The encoder: the word of a command, unused bits 0 (R93, R94, R97). -/
def encode (i : Instr) : CommandWord := packWord i.hop i.fields.1 i.fields.2.1 i.fields.2.2

/-- The bits of the word the decoder reads for this command: HOP and the operand bits of R94. -/
def Instr.usedBits : Instr → CommandWord
  | .transact _ _ _ => 0xFFFFFF03#32
  | .readReg _ | .bufRead _ | .setChannel _ => 0xFFFF0000#32
  | .writeReg _ _ | .readRegMulti _ _ | .writeRegMulti _ _ | .bufWrite _ _ | .initController _ _ => 0xFFFFFF00#32
  | .readBit _ _ => 0xFFFF0700#32
  | .writeBit _ _ _ => 0xFFFF0701#32
  | .ceSet _ | .setAddress _ => 0xFF000001#32
  | .delayMs _ => 0xFF00FFFF#32
  | .setRfParameters _ _ => 0xFF030300#32
  | .getStatus | .writeTxPayload | .readRxPayload | .flushTx | .flushRx => 0xFF000000#32
  | .getTxStatus | .isDataReady | .getRetxCount => 0xFF000000#32
  | .powerUpTx | .transmit | .powerUpRx | .getPayload | .powerDown => 0xFF000000#32

/-- The command this decoder reads from a row of spec/opcode_table.json: every row is one 32-bit command word, which the
host presents whole (R93), so the bits above `nbits` are 0 and there is no byte order to lay out. -/
def decodeTableWord (nbits w : Nat) : Option Instr :=
  match decode (BitVec.ofNat 32 (w % 2 ^ nbits)) with
  | .ok i => some i
  | .error _ => none

end Sys2Proof
end

