-- ==== Sys2Proof/Machine/Params.lean ====
section
/-! DEFINITION. The default value of every parameter, as the tables of spec/00_scope.md R5 give them. The numeric defaults of
the wire commands, addresses and bit positions are the spec's own, marked there from general knowledge
(notes/assumptions/1.md). -/

namespace Sys2Proof

/-- R5's column "default". The three chip-select delays are OPEN there, and 0 here; F_SCK is OPEN, and has no
value here (notes/assumptions/2.md). -/
def Config.default : Config where
  maxPayload := 32#8
  minPayload := 1#8
  bufSize := 32
  addrLen := 5
  nPipes := 6
  chMax := 125#8
  chFallback := 1#8
  chSentinel := 0xFF#8
  retxMask := 0x0F#8
  opcRRegister := 0x00#8
  opcWRegister := 0x20#8
  addrMask := 0x1F#8
  opcRRxPayload := 0x61#8
  opcWTxPayload := 0xA0#8
  opcFlushTx := 0xE1#8
  opcFlushRx := 0xE2#8
  opcNop := 0xFF#8
  dummyByte := 0xFF#8
  regConfig := 0x00#8
  regSetupRetr := 0x04#8
  regRfCh := 0x05#8
  regRfSetup := 0x06#8
  regStatus := 0x07#8
  regObserveTx := 0x08#8
  regRxAddrP0 := 0x0A#8
  regTxAddr := 0x10#8
  regRxPw := [0x11#8, 0x12#8, 0x13#8, 0x14#8, 0x15#8, 0x16#8]
  regFifoStatus := 0x17#8
  regDynpd := 0x1C#8
  regFeature := 0x1D#8
  bitRxDr := 6
  bitTxDs := 5
  bitMaxRt := 4
  pipeHi := 3
  pipeLo := 1
  bitEnCrc := 3
  bitPwrUp := 1
  bitPrimRx := 0
  bitRfDrHigh := 3
  bitRfDrLow := 5
  rfPwrLo := 1
  bitRxEmpty := 0
  cfgCrc := 0x08#8
  cfgBase := 0x0A#8
  cfgTx := 0x0A#8
  cfgRx := 0x0B#8
  retrValue := 0x5F#8
  dynpdOff := 0x00#8
  featureOff := 0x00#8
  clrAll := 0x70#8
  clrRxDr := 0x40#8
  pwrMap := { pwr0 := 0#2, pwr1 := 1#2, pwr2 := 2#2, pwr3 := 3#2 }
  initDataRate := .dr1M
  initTxPower := .pwr3
  tCsSetup := 0
  tCsHold := 0
  tCsIdle := 0
  tSettleMs := 50
  tDwellMs := 100
  spiMode := 0
  bitOrder := .msbFirst
  fSck := none
  seqPresent := true

end Sys2Proof
end

