-- ==== Sys2Proof/Machine/State.lean ====
section
/-! DEFINITION. The state of spec/10_state.md R20, as plain data, with what the model adds around it: the parameters (R5), the
slave at the other end of the bus (R9, R80), the host's inputs (R12), the event list (R8) and a counter of free values.
Faults, refusals and the state after reset (R40) stand here too. -/

namespace Sys2Proof.Machine

/-- Where the engine is inside a transaction (R23). -/
inductive Phase where
  | idle
  | cmd
  | data
deriving DecidableEq, Repr

/-- The data buffer: the bytes written since reset, as (index, byte) pairs with strictly rising indices. An index not listed
is a byte nothing has written, which "holds no value" (R26). -/
abbrev Memory := List Host.Cell

/-- The canonical form: indices strictly rising. Every list in this form is a different memory, since an unlisted index has
no value that a listed one could also have. -/
abbrev Memory.wf (m : Memory) : Prop := m.Pairwise (fun x y => x.1 < y.1)

/-- The reference slave of R80: a test fixture of the spec, not the chip (R83). -/
structure RefSlave where
  /-- `REG[a]`, by address; REG_STATUS and REG_FIFO_STATUS are not stored. -/
  regs : List (List Byte)
  /-- The TX FIFO, oldest payload first. -/
  txf : List (List Byte)
  /-- The RX FIFO, oldest payload first. -/
  rxf : List (List Byte)
  /-- The status byte. -/
  st : Byte
  /-- The MOSI bytes of the frame in progress, command byte first; empty outside a frame. -/
  frame : List Byte
deriving DecidableEq, Repr

/-- What answers on MISO (R9, R62). Every statement about the controller holds for every value of this type. -/
inductive Slave where
  /-- An unknown slave: it answers with the bytes of `answers` first, and then with free values
  (`Config.misoByte`). -/
  | oracle (id : Nat) (answers : List Byte)
  /-- The reference slave of R80 to R82. -/
  | reference (r : RefSlave)
deriving DecidableEq, Repr

/-- The radio events of the reference slave (R82). -/
inductive RadioEvent where
  | rx (pipe : Byte) (payload : List Byte)
  | txOk
  | txLost (count : Byte)
deriving DecidableEq, Repr

/-- What reaches the controller, or its slave, from outside, in order (R9, R12, R230, R232). -/
inductive Input where
  /-- A word presented on the command port. -/
  | command (w : CommandWord)
  /-- `rst` asserted between two commands. -/
  | rst
  /-- A word presented on the command port, and `rst` asserted after the first `k` events of its command. -/
  | commandThenRst (w : CommandWord) (k : Nat)
  /-- A radio event of the reference slave. -/
  | radio (e : RadioEvent)
deriving DecidableEq, Repr

/-- The hardware has no faults: "The controller raises no exception, takes no trap and aborts nothing" (R200, R207).
So no constructor, and nothing raises one. -/
inductive Fault where
deriving DecidableEq, Repr

/-- Why a run is refused for good (R203). Every reason is safe: nothing can be proved of a refused run. -/
inductive Refusal where
  /-- Raised by an arm of `exec` for a command that has no meaning yet; safe. None is left. -/
  | notModelled (mnemonic : String)
  /-- R203 (a). Raised by `step` for a reserved HOP, and by the eleven commands a controller without the sequence layer
  lacks (R104); safe. -/
  | illegalCommand
  /-- R203 (b). Raised by TRANSACT, READ_REG_MULTI, WRITE_REG_MULTI, BUF_WRITE, BUF_READ; safe. -/
  | lengthOutOfRange
  /-- R203 (c). Raised by TRANSACT, SET_RF_PARAMETERS; safe. -/
  | reservedOperand
  /-- R203 (d). Raised by the six register-access commands; safe. -/
  | addressOutOfRange
  /-- R203 (e). Raised by WRITE_TX_PAYLOAD, READ_RX_PAYLOAD, TRANSMIT, GET_PAYLOAD while INIT_DONE = 0; safe. -/
  | notInitialized
  /-- R203 (f). Raised by INITIALIZE; safe. -/
  | payloadSizeZero
deriving DecidableEq, Repr

/-- The controller (R20), and below it what the model adds. -/
structure State where
  /-- CSN, the chip-select output; false is low, asserted (R21). -/
  csn : Bool
  /-- CE, the enable output (R22). -/
  ce : Bool
  /-- PHASE (R23). -/
  phase : Phase
  /-- IDX, the data bytes already exchanged in the open transaction (R24). -/
  idx : Nat
  /-- CMDB, the command byte of the open transaction (R25). -/
  cmdb : Byte
  /-- LEN, its number of data bytes (R25). -/
  len : Nat
  /-- DIR, its direction (R25). -/
  dir : Dir
  /-- BUF, the data buffer (R26). -/
  buf : Memory
  /-- STATUS_LATCH (R28). -/
  statusLatch : Byte
  /-- STATUS_VALID (R28). -/
  statusValid : Bool
  /-- RES_DATA (R30). -/
  resData : Byte
  /-- RES_FLAG (R30). -/
  resFlag : Bool
  /-- RES_CODE (R30). -/
  resCode : BitVec 2
  /-- RES_ERR; true is 1, error (R30). -/
  resErr : Bool
  /-- PAYLOAD_SIZE (R32). -/
  payloadSize : BitVec 6
  /-- CHANNEL_CACHE (R33). -/
  channelCache : Byte
  /-- DATA_RATE (R34). -/
  dataRate : DataRate
  /-- TX_POWER (R35). -/
  txPower : TxPower
  /-- INIT_DONE (R36). -/
  initDone : Bool
  /-- BUSY (R37). -/
  busy : Bool
  /-- MODEL'S OWN: the parameters of this controller (R5), which no step changes. -/
  cfg : Config
  /-- MODEL'S OWN: the slave (R9). -/
  slave : Slave
  /-- MODEL'S OWN: what the host and the outside will do next, in order (R9, R12). -/
  inputs : List Input
  /-- MODEL'S OWN: every event at the pins so far, oldest first (R8). -/
  trace : List Event
  /-- MODEL'S OWN: how many free values have been drawn (R26). -/
  draws : Nat
deriving DecidableEq, Repr

/-- The state of R40 for a controller with parameters `c`. The registers that table calls unspecified hold 0, SEND or false
here (notes/assumptions/3.md), and RES_ERR and IDX hold the 0 that the table gives them (notes/assumptions/29.md). -/
def State.resetWith (c : Config) : State where
  csn := true
  ce := false
  phase := .idle
  idx := 0
  cmdb := 0#8
  len := 0
  dir := .send
  buf := []
  statusLatch := 0#8
  statusValid := false
  resData := 0#8
  resFlag := false
  resCode := 0#2
  resErr := false
  payloadSize := 0#6
  channelCache := c.chSentinel
  dataRate := c.initDataRate
  txPower := c.initTxPower
  initDone := false
  busy := false
  cfg := c
  slave := .oracle 0 []
  inputs := []
  trace := []
  draws := 0

/-- The machine right after reset (R40, R230), with the default parameters of R5. -/
def State.reset : State := State.resetWith Config.default

end Sys2Proof.Machine
end

