-- ==== Sys2Proof/Machine/Flags.lean ====
section
/-! DEFINITION. The status byte decoder: spec/43_status_decode.md R150, R153 and R156, and the result codes of R102. -/

namespace Sys2Proof.Machine

/-- The four fields of a status byte (R150). -/
structure StatusFields where
  dataReady : Bool
  txOk : Bool
  maxRt : Bool
  pipeNo : Nat
deriving DecidableEq, Repr

/-- The field of bits hi down to lo as an unsigned number (R6). -/
def bitField (b : Byte) (hi lo : Nat) : Nat := b.toNat / 2 ^ lo % 2 ^ (hi + 1 - lo)

/-- `DecodeStatus(s)` (R150). Bits with no name are ignored. -/
def decodeStatus (c : Config) (s : Byte) : StatusFields where
  dataReady := s.getLsbD c.bitRxDr
  txOk := s.getLsbD c.bitTxDs
  maxRt := s.getLsbD c.bitMaxRt
  pipeNo := bitField s c.pipeHi c.pipeLo

/-- The tri-state transmission outcome (R153). -/
inductive TxOutcome where
  | sending
  | ok
  | lost
deriving DecidableEq, Repr

/-- `TxOutcome(s)` (R153): transmit success is tested first, so both bits set gives Ok (R206). -/
def txOutcome (c : Config) (s : Byte) : TxOutcome :=
  if s.getLsbD c.bitTxDs then .ok else if s.getLsbD c.bitMaxRt then .lost else .sending

/-- RES_CODE of an outcome (R102): Sending 0, Ok 1, Lost 2. -/
def outcomeCode : TxOutcome → BitVec 2
  | .sending => 0#2
  | .ok => 1#2
  | .lost => 2#2

/-- The status port: STATUS_LATCH when STATUS_VALID = 1, a free value drawn at the read otherwise (R28). -/
def statusPort (s : State) : Byte × State :=
  if s.statusValid then (s.statusLatch, s) else (Config.invalidStatus s.trace s.draws, { s with draws := s.draws + 1 })

/-- The decoder outputs `st_data_ready`, `st_tx_ok`, `st_max_rt`, `st_pipe_no`, driven at all times (R156): DecodeStatus of what
a read of STATUS_LATCH yields, so a free value while STATUS_VALID = 0 (R28, R20). -/
def decoderOutputs (s : State) : StatusFields × State :=
  let r := statusPort s
  (decodeStatus s.cfg r.1, r.2)

end Sys2Proof.Machine
end

