-- ==== Sys2Proof/Machine/Operands.lean ====
section
/-! DEFINITION. The values assembled from operands: spec/30_encoding.md R95 and the operand checks of R99 and R100. -/

namespace Sys2Proof.Machine

/-- R95 a: `OPC_R_REGISTER OR addr`, on 8 bits, with no mask (R91). -/
def readCommand (c : Config) (addr : Byte) : Byte := c.opcRRegister ||| addr

/-- R95 a: `OPC_W_REGISTER OR addr`. -/
def writeCommand (c : Config) (addr : Byte) : Byte := c.opcWRegister ||| addr

/-- R100: `addr` has a bit set outside ADDR_MASK. -/
def addrOutside (c : Config) (addr : Byte) : Bool := clearBits addr c.addrMask != 0#8

/-- R99: a length or a count that BUF cannot hold. -/
def tooLong (c : Config) (n : Byte) : Bool := decide (c.bufSize < n.toNat)

/-- R99: an index BUF does not have. -/
def noSuchIndex (c : Config) (index : Byte) : Bool := decide (c.bufSize ≤ index.toNat)

/-- R135: `(b AND BIT(bitIndex)) ≠ 0`. -/
def testBit (b : Byte) (bitIndex : Nat) : Bool := b &&& bitAt bitIndex != 0#8

/-- R136: `old OR BIT(bitIndex)` when the bit value is 1, `old AND NOT BIT(bitIndex)` when it is 0. -/
def assignBit (old : Byte) (bitIndex : Nat) (value : Bool) : Byte :=
  if value then old ||| bitAt bitIndex else clearBits old (bitAt bitIndex)

/-- R95 c: `min(payloadSize, MAX_PAYLOAD)`, kept in the 6 bits of PAYLOAD_SIZE (R20). -/
def clampPayload (c : Config) (payloadSize : Byte) : BitVec 6 :=
  (if payloadSize ≤ c.maxPayload then payloadSize else c.maxPayload).setWidth 6

/-- PAYLOAD_SIZE as the data byte that goes into a pipe-width register (R171 step 10). -/
def payloadByte (n : BitVec 6) : Byte := n.setWidth 8

/-- R95 d: the retransmission count, `byte AND RETX_MASK`. -/
def retxCount (c : Config) (b : Byte) : Byte := b &&& c.retxMask

/-- R95 e: "2 Mbps sets one bit, 250 kbps sets a different bit, 1 Mbps leaves both clear". -/
def dataRateBits (c : Config) : DataRate → Byte
  | .dr1M => 0#8
  | .dr2M => bitAt c.bitRfDrHigh
  | .dr250K => bitAt c.bitRfDrLow

/-- PWR_MAP (R5). -/
def powerCode (c : Config) : TxPower → BitVec 2
  | .pwr0 => c.pwrMap.pwr0
  | .pwr1 => c.pwrMap.pwr1
  | .pwr2 => c.pwrMap.pwr2
  | .pwr3 => c.pwrMap.pwr3

/-- R95 e: the RF-setup value, every other bit 0 (R174). -/
def rfSetup (c : Config) (rate : DataRate) (power : TxPower) : Byte :=
  dataRateBits c rate ||| ((powerCode c power).setWidth 8 <<< c.rfPwrLo)

/-- R172: the acceptance test of SET_CHANNEL, `channel ≤ CH_MAX and channel ≠ CHANNEL_CACHE`. -/
def channelAccepted (c : Config) (cache channel : Byte) : Bool := decide (channel ≤ c.chMax) && channel != cache

end Sys2Proof.Machine
end

