-- ==== Sys2Proof/Machine/Slave.lean ====
section
/-! DEFINITION. What is at the other end of the bus: the reference slave of spec/20_memory.md R80 to R82, the answer of any slave to
one exchange (R62), and the postures of R77 and R215. No rule of the controller depends on the reference slave (R83). -/

namespace Sys2Proof.Machine

/-- The start state of R80: every register byte 0x00, both FIFOs empty, ST = 0x0E. -/
def RefSlave.start (c : Config) : RefSlave where
  regs := (List.range (c.addrMask.toNat + 1)).map fun a =>
    if a = c.regRxAddrP0.toNat ∨ a = c.regTxAddr.toNat then List.replicate c.addrLen 0#8 else [0#8]
  txf := []
  rxf := []
  st := 0x0E#8
  frame := []

/-- The content of the register at address `a`, byte `i`; 0x00 beyond its length (R80, R81). -/
def RefSlave.regByte (c : Config) (r : RefSlave) (a : Byte) (i : Nat) : Byte :=
  if a = c.regStatus then (if i = 0 then r.st else 0#8)
  else if a = c.regFifoStatus then (if i = 0 ∧ r.rxf = [] then bitAt c.bitRxEmpty else 0#8)
  else (r.regs.getD a.toNat []).getD i 0#8

/-- MISO data byte `i` of a frame with command byte `cmd` (R81). For the two flush commands R81 gives the FIFO effect alone; that
a flush frame with data bytes is answered 0x00 is the model's choice (notes/assumptions/30.md). -/
def RefSlave.dataByte (c : Config) (r : RefSlave) (cmd : Byte) (i : Nat) : Byte :=
  if clearBits cmd c.addrMask = c.opcRRegister then r.regByte c (cmd &&& c.addrMask) i
  else if cmd = c.opcRRxPayload then (r.rxf.headD []).getD i 0#8
  else 0#8

/-- The MISO byte of the next exchange: ST first, then the data bytes (R70, R81). -/
def RefSlave.answer (c : Config) (r : RefSlave) : Byte :=
  match r.frame with
  | [] => r.st
  | cmd :: data => r.dataByte c cmd data.length

/-- `REG[a][i] <- mi` for i below min(n, length): the register keeps its length (R81). -/
def overwrite (old new : List Byte) : List Byte := new.take old.length ++ old.drop new.length

/-- A register write with data bytes `data` (R81): write-one-to-clear on REG_STATUS (R73), ignored on REG_FIFO_STATUS and
REG_OBSERVE_TX. -/
def RefSlave.writeReg (c : Config) (r : RefSlave) (a : Byte) (data : List Byte) : RefSlave :=
  if a = c.regStatus then
    match data with
    | [] => r
    | m :: _ => { r with st := clearBits r.st (m &&& c.clrAll) }
  else if a = c.regFifoStatus ∨ a = c.regObserveTx then r
  else { r with regs := r.regs.set a.toNat (overwrite (r.regs.getD a.toNat []) data) }

/-- The state changes of a frame, which take effect when CSN rises (R81). -/
def RefSlave.commit (c : Config) (r : RefSlave) : RefSlave :=
  match r.frame with
  | [] => r
  | cmd :: data =>
    if clearBits cmd c.addrMask = c.opcRRegister then r
    else if clearBits cmd c.addrMask = c.opcWRegister then r.writeReg c (cmd &&& c.addrMask) data
    else if cmd = c.opcRRxPayload then { r with rxf := r.rxf.tail }
    else if cmd = c.opcWTxPayload then { r with txf := r.txf ++ [data] }
    else if cmd = c.opcFlushTx then { r with txf := [] }
    else if cmd = c.opcFlushRx then { r with rxf := [] }
    else r

/-- The pipe-number field of a status byte set to `p` (R82). -/
def setPipe (c : Config) (st p : Byte) : Byte :=
  let field : Byte := ((1#8 <<< (c.pipeHi + 1 - c.pipeLo)) - 1#8) <<< c.pipeLo
  clearBits st field ||| ((p <<< c.pipeLo) &&& field)

/-- The radio events of R82. What R82 does not say is the model's choice (notes/assumptions/28.md): `tx_ok` with an empty TX FIFO
removes nothing and sets the bit all the same, and `rx` keeps of `p` the bits the pipe-number field has. -/
def RefSlave.radio (c : Config) (r : RefSlave) : RadioEvent → RefSlave
  | .rx p payload => { r with rxf := r.rxf ++ [payload], st := setPipe c r.st p ||| bitAt c.bitRxDr }
  | .txOk => { r with txf := r.txf.tail, st := r.st ||| bitAt c.bitTxDs }
  | .txLost k =>
    { r with st := r.st ||| bitAt c.bitMaxRt, regs := r.regs.set c.regObserveTx.toNat [k &&& 0x0F#8] }

/-- Any slave, when the chip-select line is driven to `level`. -/
def Slave.onCsn (c : Config) (level : Bool) : Slave → Slave
  | .oracle id answers => .oracle id answers
  | .reference r => .reference (if level then { r.commit c with frame := [] } else { r with frame := [] })

/-- Any slave's answer to one exchange (R62), and the slave after it. An unknown slave's answer may depend on the whole
history. -/
def Slave.exchange (c : Config) (history : List Event) (mosi : Byte) : Slave → Byte × Slave
  | .oracle id [] => (Config.misoByte id history mosi, .oracle id [])
  | .oracle id (b :: answers) => (b, .oracle id answers)
  | .reference r => (r.answer c, .reference { r with frame := r.frame ++ [mosi] })

/-- A radio event reaches the reference slave only: an unknown slave's radio is already inside its free answers (R82). -/
def Slave.onRadio (c : Config) (e : RadioEvent) : Slave → Slave
  | .oracle id answers => .oracle id answers
  | .reference r => .reference (r.radio c e)

/-- After a reset in the middle of a command the slave's state is unknown (R232). -/
def Slave.forget : Slave → Slave
  | .oracle id _ => .oracle id []
  | .reference _ => .oracle 0 []

/-- What the slave does by REG_CONFIG and CE (R77, R215). "Transmit-ready" is `standby` with the primary-transmit role. -/
inductive Posture where
  | powerDown
  | standby
  | transmitting
  | listening
deriving DecidableEq, Repr

/-- R77: CE high transmits or listens by the role bit, CE low stops either, and the power-up bit clear is power-down. -/
def posture (c : Config) (config : Byte) (ce : Bool) : Posture :=
  if config.getLsbD c.bitPwrUp = false then .powerDown
  else if ce = false then .standby
  else if config.getLsbD c.bitPrimRx then .listening else .transmitting

end Sys2Proof.Machine
end

