-- ==== Sys2Proof/Machine/Ops.lean ====
section
/-! DEFINITION. The named operations every command is built from: the data buffer (spec/10_state.md R26), events (R8), the bus
transaction engine (spec/40_bus_transaction.md R120, R121), the lines (R161, R162), and the command port and reset (R37, R230,
R232). There is no exception to take and none to return from (R200, R207, R208): a command completes or is refused (R203). -/

namespace Sys2Proof.Machine

/-! The data buffer -/

/-- BUF[i]; `none` when nothing has written it since reset (R26). -/
def Memory.read : Memory → Nat → Option Byte
  | [], _ => none
  | (j, b) :: rest, i => if i = j then some b else Memory.read rest i

/-- `BUF[i] <- b`, in the canonical form. -/
def Memory.write : Memory → Nat → Byte → Memory
  | [], i, b => [(i, b)]
  | (j, x) :: rest, i, b =>
    if i < j then (i, b) :: (j, x) :: rest
    else if i = j then (i, b) :: rest
    else (j, x) :: Memory.write rest i b

/-- `BUF[i + k] <- bs[k]` for every k, ascending. -/
def Memory.writeFrom : Memory → Nat → List Byte → Memory
  | m, _, [] => m
  | m, i, b :: bs => (m.write i b).writeFrom (i + 1) bs

/-- A read of BUF[i]: its byte, or a fresh free value when nothing has written it (R26). -/
def readBuf (i : Nat) (s : State) : Byte × State :=
  match s.buf.read i with
  | some b => (b, s)
  | none => (Config.unwrittenByte s.trace s.draws i, { s with draws := s.draws + 1 })

/-- `[BUF[i], ..., BUF[i + n - 1]]`, read in ascending order. -/
def readBufFrom : Nat → Nat → State → List Byte × State
  | _, 0, s => ([], s)
  | i, n + 1, s =>
    let r := readBuf i s
    let q := readBufFrom (i + 1) n r.2
    (r.1 :: q.1, q.2)

/-- `for i = 0 to n-1: BUF[i] <- bs[i]`. -/
def storeBuf (bs : List Byte) (s : State) : State := { s with buf := s.buf.writeFrom 0 bs }

/-! Events and pins -/

/-- Record one event (R8). -/
def emit (e : Event) (s : State) : State := { s with trace := s.trace ++ [e] }

/-- One of the engine's three waits: an event only where the delay is not zero (R121, R244). -/
def chipSelectWait (t : Nat) (s : State) : State := if t = 0 then s else emit (.wait (.chipSelect t)) s

/-- WAIT(T_CS_IDLE), since the previous `CSN(1)`, if any (R121). -/
def idleWait (s : State) : State :=
  if s.trace.contains (.csn true) then chipSelectWait s.cfg.tCsIdle s else s

/-- Drive chip-select (R21); the slave sees it. -/
def setCsn (level : Bool) (s : State) : State :=
  emit (.csn level) { s with csn := level, slave := s.slave.onCsn s.cfg level }

/-- Drive the enable line (R22). -/
def setCe (level : Bool) (s : State) : State := emit (.ce level) { s with ce := level }

/-- CSN and CE after a list of events. -/
def pinsAfter : List Event → Bool × Bool → Bool × Bool
  | [], p => p
  | .csn l :: es, p => pinsAfter es (l, p.2)
  | .ce l :: es, p => pinsAfter es (p.1, l)
  | .xfer _ _ :: es, p => pinsAfter es p
  | .wait _ :: es, p => pinsAfter es p

/-! The bus transaction engine -/

/-- `Xfer(m)` (R120): the byte received, and the event. -/
def xfer (m : Byte) (s : State) : Byte × State :=
  let r := s.slave.exchange s.cfg s.trace m
  (r.1, emit (.xfer m r.1) { s with slave := r.2 })

/-- R121, up to the first exchange: operands loaded, CSN low. -/
def openFrame (c : Byte) (n : Nat) (d : Dir) (s : State) : State :=
  let s := idleWait s
  let s := { s with cmdb := c, len := n, dir := d, idx := 0, phase := .cmd }
  let s := setCsn false s
  chipSelectWait s.cfg.tCsSetup s

/-- R121: command byte out, status byte in and latched (R124). -/
def xferCommand (c : Byte) (s : State) : Byte × State :=
  let r := xfer c s
  (r.1, { r.2 with statusLatch := r.1, statusValid := true, phase := .data })

/-- R121: `for i = 0 to n-1: r[i] <- Xfer(tx[i]); IDX <- i + 1`. -/
def xferData : List Byte → State → List Byte × State
  | [], s => ([], s)
  | m :: ms, s =>
    let r := xfer m s
    let q := xferData ms { r.2 with idx := r.2.idx + 1 }
    (r.1 :: q.1, q.2)

/-- R121, after the last exchange: CSN high, the engine idle. -/
def closeFrame (s : State) : State :=
  let s := chipSelectWait s.cfg.tCsHold s
  let s := setCsn true s
  { s with phase := .idle, idx := 0 }

/-- `Transact(c, tx, n, dir)` with n = len(tx) (R121): the status byte, the received bytes and the state after. -/
def transact (c : Byte) (tx : List Byte) (d : Dir) (s : State) : Byte × List Byte × State :=
  let s := openFrame c tx.length d s
  let r := xferCommand c s
  let q := xferData tx r.2
  (r.1, q.1, closeFrame q.2)

/-- `MemRead(addr, n)` (R7): n bytes of a slave register, DUMMY_BYTE going out (R123). -/
def memRead (addr : Byte) (n : Nat) (s : State) : List Byte × State :=
  let r := transact (readCommand s.cfg addr) (List.replicate n s.cfg.dummyByte) .recv s
  (r.2.1, r.2.2)

/-- `MemWrite(addr, n, v)` (R7): the bytes `v` to a slave register; the received bytes are discarded. -/
def memWrite (addr : Byte) (v : List Byte) (s : State) : State := (transact (writeCommand s.cfg addr) v .send s).2.2

/-- One byte of a slave register. -/
def memReadByte (addr : Byte) (s : State) : Byte × State :=
  let r := memRead addr 1 s
  (r.1.headD 0#8, r.2)

/-- A frame of the command byte alone: the status byte, and the state after. -/
def commandOnly (c : Byte) (s : State) : Byte × State :=
  let r := transact c [] .send s
  (r.1, r.2.2)

/-- `RES_ERR <- 0` (R30). -/
def reportOk (s : State) : State := { s with resErr := false }

/-! The command port and reset -/

/-- A command is accepted: the word leaves the port, BUSY becomes 1 (R37). -/
def accept (s : State) : State := { s with inputs := s.inputs.tail, busy := true }

/-- A command completes: BUSY returns to 0 (R37). A refusal ends the run (R203). -/
def complete : Host.Outcome State Fault Refusal → Host.Outcome State Fault Refusal
  | .next t => .next { t with busy := false }
  | .fault r => .fault r
  | .refused r => .refused r

/-- What the pins show when `rst` is asserted: CSN goes to 1 and CE to 0, each an event if the level changes (R232). -/
def resetEvents (csn ce : Bool) : List Event :=
  (if csn then [] else [.csn true]) ++ (if ce then [.ce false] else [])

/-- `rst` asserted: the controller is in the state of R40; the slave is not touched (R230, R231). -/
def assertRst (s : State) : State :=
  { State.resetWith s.cfg with
    slave := s.slave, inputs := s.inputs, trace := s.trace ++ resetEvents s.csn s.ce, draws := s.draws }

/-- `rst` taken as an input. Between two commands BUSY is 0 and the slave is as it was (R231); where BUSY is 1 a command is cut
off, so the slave's state is unknown (R232). -/
def rstInput (s : State) : State := assertRst { s with slave := if s.busy then s.slave.forget else s.slave }

/-- `rst` asserted after the first `k` events of a command accepted in `s` that would have ended in `t` (R232): no later event
happens, no result is written, and the slave's state is unknown from then on. -/
def abandon (k : Nat) (s t : State) : State :=
  let events := (t.trace.drop s.trace.length).take k
  let pins := pinsAfter events (s.csn, s.ce)
  assertRst { t with csn := pins.1, ce := pins.2, trace := s.trace ++ events, slave := t.slave.forget }

/-- A radio event of the slave between two commands (R82). -/
def radioEvent (e : RadioEvent) (s : State) : State := { s with slave := s.slave.onRadio s.cfg e }

/-- The input at the head is dealt with. -/
def dropInput (s : State) : State := { s with inputs := s.inputs.tail }

end Sys2Proof.Machine
end

