-- ==== Sys2Proof/Machine/Lines.lean ====
section
/-! DEFINITION. The enable line, the delay and the data buffer commands: spec/44_lines_delay_buffer.md R161 to R164. -/

namespace Sys2Proof.Machine

/-- R161. -/
def doCeSet (level : Bool) (s : State) : State := reportOk (setCe level s)

/-- CE_SET level (R161). -/
def execCeSet (level : Bool) (s : State) : Host.Outcome State Fault Refusal := .next (doCeSet level s)

/-- R162: the event `WAIT(ms)`; the model keeps no clock. -/
def doDelayMs (ms : Nat) (s : State) : State := reportOk (emit (.wait (.ms ms)) s)

/-- DELAY_MS ms (R162). -/
def execDelayMs (ms : BitVec 16) (s : State) : Host.Outcome State Fault Refusal := .next (doDelayMs ms.toNat s)

/-- R163, past the refusal. -/
def doBufWrite (index : Nat) (value : Byte) (s : State) : State := reportOk { s with buf := s.buf.write index value }

/-- BUF_WRITE index, value (R163). -/
def execBufWrite (index value : Byte) (s : State) : Host.Outcome State Fault Refusal :=
  if noSuchIndex s.cfg index then .refused .lengthOutOfRange else .next (doBufWrite index.toNat value s)

/-- R164, past the refusal. A byte that nothing has written stays so. -/
def doBufRead (index : Nat) (s : State) : State :=
  let r := readBuf index s
  reportOk { r.2 with resData := r.1 }

/-- BUF_READ index (R164). -/
def execBufRead (index : Byte) (s : State) : Host.Outcome State Fault Refusal :=
  if noSuchIndex s.cfg index then .refused .lengthOutOfRange else .next (doBufRead index.toNat s)

end Sys2Proof.Machine
end

