-- ==== Sys2Proof/Machine/Payload.lean ====
section
/-! DEFINITION. The payload and FIFO commands: spec/42_payload_fifo.md R140 to R144. -/

namespace Sys2Proof.Machine

/-- R141, past the refusal. -/
def doWriteTxPayload (s : State) : State :=
  let b := readBufFrom 0 s.payloadSize.toNat s
  reportOk (transact s.cfg.opcWTxPayload b.1 .send b.2).2.2

/-- WRITE_TX_PAYLOAD (R141). A controller without the sequence layer lacks it (R104). -/
def execWriteTxPayload (s : State) : Host.Outcome State Fault Refusal :=
  if !s.cfg.seqPresent then .refused .illegalCommand
  else if !s.initDone then .refused .notInitialized
  else .next (doWriteTxPayload s)

/-- R142, past the refusal: full-duplex, the prior content of BUF going out. -/
def doReadRxPayload (s : State) : State :=
  let b := readBufFrom 0 s.payloadSize.toNat s
  let r := transact s.cfg.opcRRxPayload b.1 .duplex b.2
  reportOk (storeBuf r.2.1 r.2.2)

/-- READ_RX_PAYLOAD (R142). A controller without the sequence layer lacks it (R104). -/
def execReadRxPayload (s : State) : Host.Outcome State Fault Refusal :=
  if !s.cfg.seqPresent then .refused .illegalCommand
  else if !s.initDone then .refused .notInitialized
  else .next (doReadRxPayload s)

/-- R143. -/
def doFlushTx (s : State) : State := reportOk (commandOnly s.cfg.opcFlushTx s).2

/-- FLUSH_TX (R143). -/
def execFlushTx (s : State) : Host.Outcome State Fault Refusal := .next (doFlushTx s)

/-- R144. -/
def doFlushRx (s : State) : State := reportOk (commandOnly s.cfg.opcFlushRx s).2

/-- FLUSH_RX (R144). -/
def execFlushRx (s : State) : Host.Outcome State Fault Refusal := .next (doFlushRx s)

end Sys2Proof.Machine
end

