-- ==== Sys2Proof/Machine/RegAccess.lean ====
section
/-! DEFINITION. The register access layer: spec/41_register_access.md R130 to R136. Each `do…` is a command past its refusals, as
the pseudo-instructions use it (R170). -/

namespace Sys2Proof.Machine

/-- R131, past the refusal. -/
def doReadReg (addr : Byte) (s : State) : State :=
  let r := memReadByte addr s
  reportOk { r.2 with resData := r.1 }

/-- READ_REG addr (R131). -/
def execReadReg (addr : Byte) (s : State) : Host.Outcome State Fault Refusal :=
  if addrOutside s.cfg addr then .refused .addressOutOfRange else .next (doReadReg addr s)

/-- R132, past the refusal. -/
def doWriteReg (addr value : Byte) (s : State) : State := reportOk (memWrite addr [value] s)

/-- WRITE_REG addr, value (R132). -/
def execWriteReg (addr value : Byte) (s : State) : Host.Outcome State Fault Refusal :=
  if addrOutside s.cfg addr then .refused .addressOutOfRange else .next (doWriteReg addr value s)

/-- R133, past the refusals. -/
def doReadRegMulti (addr : Byte) (count : Nat) (s : State) : State :=
  let r := memRead addr count s
  reportOk (storeBuf r.1 r.2)

/-- READ_REG_MULTI addr, count (R133). -/
def execReadRegMulti (addr count : Byte) (s : State) : Host.Outcome State Fault Refusal :=
  if addrOutside s.cfg addr then .refused .addressOutOfRange
  else if tooLong s.cfg count then .refused .lengthOutOfRange
  else .next (doReadRegMulti addr count.toNat s)

/-- R134, past the refusals. -/
def doWriteRegMulti (addr : Byte) (count : Nat) (s : State) : State :=
  let b := readBufFrom 0 count s
  reportOk (memWrite addr b.1 b.2)

/-- WRITE_REG_MULTI addr, count (R134). -/
def execWriteRegMulti (addr count : Byte) (s : State) : Host.Outcome State Fault Refusal :=
  if addrOutside s.cfg addr then .refused .addressOutOfRange
  else if tooLong s.cfg count then .refused .lengthOutOfRange
  else .next (doWriteRegMulti addr count.toNat s)

/-- R135, past the refusal. -/
def doReadBit (addr : Byte) (bitIndex : Nat) (s : State) : State :=
  let r := memReadByte addr s
  reportOk { r.2 with resData := r.1, resFlag := testBit r.1 bitIndex }

/-- READ_BIT addr, bitIndex (R135). -/
def execReadBit (addr : Byte) (bitIndex : BitVec 3) (s : State) : Host.Outcome State Fault Refusal :=
  if addrOutside s.cfg addr then .refused .addressOutOfRange else .next (doReadBit addr bitIndex.toNat s)

/-- R136, past the refusal: a read frame, then a write frame, always (D37). -/
def doWriteBit (addr : Byte) (bitIndex : Nat) (value : Bool) (s : State) : State :=
  let r := memReadByte addr s
  let new := assignBit r.1 bitIndex value
  reportOk { memWrite addr [new] r.2 with resData := new }

/-- WRITE_BIT addr, bitIndex, value (R136). -/
def execWriteBit (addr : Byte) (bitIndex : BitVec 3) (value : Bool) (s : State) : Host.Outcome State Fault Refusal :=
  if addrOutside s.cfg addr then .refused .addressOutOfRange else .next (doWriteBit addr bitIndex.toNat value s)

end Sys2Proof.Machine
end

