-- ==== Sys2Proof/Machine/TxRx.lean ====
section
/-! DEFINITION. The transmit and receive sequences, each the list of commands of its rule, in order (R170):
spec/46_transmit_receive.md R181 to R185. -/

namespace Sys2Proof.Machine

/-- R181. -/
def doPowerUpTx (s : State) : State := reportOk (doWriteReg s.cfg.regConfig s.cfg.cfgTx s)

/-- POWER_UP_TX (R181). -/
def execPowerUpTx (s : State) : Host.Outcome State Fault Refusal :=
  if !s.cfg.seqPresent then .refused .illegalCommand else .next (doPowerUpTx s)

/-- R182, past the refusals, steps 1 to 5. -/
def doTransmit (s : State) : State :=
  let c := s.cfg
  let s := doCeSet false s
  let s := doPowerUpTx s
  let s := doWriteReg c.regStatus c.clrAll s
  let s := doFlushTx s
  let s := doWriteTxPayload s
  let s := doCeSet true s
  let s := doDelayMs c.tDwellMs s
  let s := doCeSet false s
  reportOk s

/-- TRANSMIT (R182). -/
def execTransmit (s : State) : Host.Outcome State Fault Refusal :=
  if !s.cfg.seqPresent then .refused .illegalCommand
  else if !s.initDone then .refused .notInitialized
  else .next (doTransmit s)

/-- R183. -/
def doPowerUpRx (s : State) : State :=
  let c := s.cfg
  let s := doCeSet false s
  let s := doFlushRx s
  let s := doWriteReg c.regStatus c.clrAll s
  let s := doWriteReg c.regConfig c.cfgRx s
  let s := doCeSet true s
  reportOk s

/-- POWER_UP_RX (R183). -/
def execPowerUpRx (s : State) : Host.Outcome State Fault Refusal :=
  if !s.cfg.seqPresent then .refused .illegalCommand else .next (doPowerUpRx s)

/-- R184, past the refusals: the payload read, then the clear of the data-ready bit alone. -/
def doGetPayload (s : State) : State :=
  let c := s.cfg
  let s := doReadRxPayload s
  let s := doWriteReg c.regStatus c.clrRxDr s
  reportOk s

/-- GET_PAYLOAD (R184). -/
def execGetPayload (s : State) : Host.Outcome State Fault Refusal :=
  if !s.cfg.seqPresent then .refused .illegalCommand
  else if !s.initDone then .refused .notInitialized
  else .next (doGetPayload s)

/-- R185. -/
def doPowerDown (s : State) : State :=
  let c := s.cfg
  let s := doCeSet false s
  let s := doWriteBit c.regConfig c.bitPwrUp false s
  reportOk s

/-- POWER_DOWN (R185). -/
def execPowerDown (s : State) : Host.Outcome State Fault Refusal :=
  if !s.cfg.seqPresent then .refused .illegalCommand else .next (doPowerDown s)

end Sys2Proof.Machine
end

