-- ==== Sys2Proof/Machine/DeviceConfig.lean ====
section
/-! DEFINITION. The device configuration sequences: spec/45_device_configuration.md R170 to R174. -/

namespace Sys2Proof.Machine

/-- R172: one acceptance test, and one rejection path for both causes (D17). -/
def doSetChannel (channel : Byte) (s : State) : State :=
  if channelAccepted s.cfg s.channelCache channel then
    { doWriteReg s.cfg.regRfCh channel s with channelCache := channel, resErr := false }
  else { doWriteReg s.cfg.regRfCh s.cfg.chFallback s with resErr := true }

/-- SET_CHANNEL channel (R172). -/
def execSetChannel (channel : Byte) (s : State) : Host.Outcome State Fault Refusal :=
  if !s.cfg.seqPresent then .refused .illegalCommand else .next (doSetChannel channel s)

/-- R173: the pipe-0 receive address, then for a peer address the transmit address too. -/
def doSetAddress (isOwnAddress : Bool) (s : State) : State :=
  let c := s.cfg
  let s := doWriteRegMulti c.regRxAddrP0 c.addrLen s
  let s := if isOwnAddress then s else doWriteRegMulti c.regTxAddr c.addrLen s
  reportOk s

/-- SET_ADDRESS isOwnAddress (R173). -/
def execSetAddress (isOwnAddress : Bool) (s : State) : Host.Outcome State Fault Refusal :=
  if !s.cfg.seqPresent then .refused .illegalCommand else .next (doSetAddress isOwnAddress s)

/-- R174, past the refusals. -/
def doSetRfParameters (rate : DataRate) (power : TxPower) (s : State) : State :=
  let s := doWriteReg s.cfg.regRfSetup (rfSetup s.cfg rate power) s
  reportOk { s with dataRate := rate, txPower := power }

/-- SET_RF_PARAMETERS dataRate, outputPower (R174). -/
def execSetRfParameters (dataRate : Option DataRate) (outputPower : TxPower) (s : State) :
    Host.Outcome State Fault Refusal :=
  if !s.cfg.seqPresent then .refused .illegalCommand
  else
    match dataRate with
    | none => .refused .reservedOperand
    | some rate => .next (doSetRfParameters rate outputPower s)

/-- R171 step 10: `for p = 0 to N_PIPES-1: WRITE_REG REG_RX_PW[p], PAYLOAD_SIZE`. -/
def writePipeWidths : List Byte → State → State
  | [], s => s
  | a :: rest, s => writePipeWidths rest (doWriteReg a (payloadByte s.payloadSize) s)

/-- R171 steps 3 (its register write) to 7. -/
def initRegisters (s : State) : State :=
  let c := s.cfg
  let s := doWriteReg c.regConfig c.cfgBase s
  let s := doWriteReg c.regSetupRetr c.retrValue s
  let s := doSetRfParameters s.dataRate s.txPower s
  let s := doWriteReg c.regDynpd c.dynpdOff s
  let s := doWriteReg c.regFeature c.featureOff s
  doWriteReg c.regStatus c.clrAll s

/-- R171 steps 9 to 11. -/
def initFinish (s : State) : State :=
  let c := s.cfg
  let s := doFlushTx s
  let s := doFlushRx s
  let s := writePipeWidths (c.regRxPw.take c.nPipes) s
  doPowerUpTx s

/-- R171, past the refusals, steps 1 to 11. All eleven run whatever step 8 reports (D18). -/
def doInitialize (channel payloadSize : Byte) (s : State) : State :=
  let c := s.cfg
  let s := { s with payloadSize := clampPayload c payloadSize, initDone := true }
  let s := { s with channelCache := c.chSentinel }
  let s := doCeSet false s
  let s := doDelayMs c.tSettleMs s
  let s := initRegisters s
  let s := doSetChannel channel s
  let e := s.resErr
  let s := initFinish s
  { s with resErr := e }

/-- INITIALIZE channel, payloadSize (R171). -/
def execInitialize (channel payloadSize : Byte) (s : State) : Host.Outcome State Fault Refusal :=
  if !s.cfg.seqPresent then .refused .illegalCommand
  else if payloadSize == 0#8 then .refused .payloadSizeZero
  else .next (doInitialize channel payloadSize s)

end Sys2Proof.Machine
end

