-- ==== Sys2Proof/Machine/Engine.lean ====
section
/-! DEFINITION. TRANSACT: spec/40_bus_transaction.md R127. -/

namespace Sys2Proof.Machine

/-- R127, past the refusals. RECV sends DUMMY_BYTE; SEND and DUPLEX send BUF; RECV and DUPLEX store into BUF (R123). -/
def doTransact (commandByte : Byte) (length : Nat) (dir : Dir) (s : State) : State :=
  match dir with
  | .send =>
    let b := readBufFrom 0 length s
    reportOk (transact commandByte b.1 .send b.2).2.2
  | .recv =>
    let r := transact commandByte (List.replicate length s.cfg.dummyByte) .recv s
    reportOk (storeBuf r.2.1 r.2.2)
  | .duplex =>
    let b := readBufFrom 0 length s
    let r := transact commandByte b.1 .duplex b.2
    reportOk (storeBuf r.2.1 r.2.2)

/-- TRANSACT commandByte, length, dir (R127). -/
def execTransact (commandByte length : Byte) (dir : Option Dir) (s : State) : Host.Outcome State Fault Refusal :=
  match dir with
  | none => .refused .reservedOperand
  | some d =>
    if tooLong s.cfg length then .refused .lengthOutOfRange else .next (doTransact commandByte length.toNat d s)

end Sys2Proof.Machine
end

