-- ==== Sys2Proof/Machine/StatusDecode.lean ====
section
/-! DEFINITION. The commands that fetch and decode a status or diagnostic byte: spec/43_status_decode.md R151, R152, R154, R155.
Each makes its own transaction; none reads STATUS_LATCH. -/

namespace Sys2Proof.Machine

/-- R151. -/
def doGetStatus (s : State) : State :=
  let r := commandOnly s.cfg.opcNop s
  reportOk { r.2 with resData := r.1 }

/-- GET_STATUS (R151). -/
def execGetStatus (s : State) : Host.Outcome State Fault Refusal := .next (doGetStatus s)

/-- R152. -/
def doGetTxStatus (s : State) : State :=
  let r := commandOnly s.cfg.opcNop s
  reportOk { r.2 with resData := r.1, resCode := outcomeCode (txOutcome s.cfg r.1) }

/-- GET_TX_STATUS (R152). -/
def execGetTxStatus (s : State) : Host.Outcome State Fault Refusal := .next (doGetTxStatus s)

/-- R154: the FIFO-status register is read only when the data-ready bit is clear (D27). -/
def doIsDataReady (s : State) : State :=
  let r := commandOnly s.cfg.opcNop s
  if r.1.getLsbD s.cfg.bitRxDr then reportOk { r.2 with resFlag := true }
  else
    let q := memReadByte s.cfg.regFifoStatus r.2
    reportOk { q.2 with resFlag := !q.1.getLsbD s.cfg.bitRxEmpty }

/-- IS_DATA_READY (R154). -/
def execIsDataReady (s : State) : Host.Outcome State Fault Refusal := .next (doIsDataReady s)

/-- R155. -/
def doGetRetxCount (s : State) : State :=
  let r := memReadByte s.cfg.regObserveTx s
  reportOk { r.2 with resData := retxCount s.cfg r.1 }

/-- GET_RETX_COUNT (R155). -/
def execGetRetxCount (s : State) : Host.Outcome State Fault Refusal := .next (doGetRetxCount s)

end Sys2Proof.Machine
end

