-- ==== Sys2Proof/Machine/Dispatch.lean ====
section
/-! DEFINITION. One arm per command of spec/30_encoding.md R97. -/

namespace Sys2Proof.Machine

def exec (i : Instr) (s : State) : Host.Outcome State Fault Refusal :=
  match i with
  | .transact commandByte length dir => Sys2Proof.Machine.execTransact commandByte length dir s
  | .getStatus => Sys2Proof.Machine.execGetStatus s
  | .readReg addr => Sys2Proof.Machine.execReadReg addr s
  | .writeReg addr value => Sys2Proof.Machine.execWriteReg addr value s
  | .readRegMulti addr count => Sys2Proof.Machine.execReadRegMulti addr count s
  | .writeRegMulti addr count => Sys2Proof.Machine.execWriteRegMulti addr count s
  | .readBit addr bitIndex => Sys2Proof.Machine.execReadBit addr bitIndex s
  | .writeBit addr bitIndex value => Sys2Proof.Machine.execWriteBit addr bitIndex value s
  | .writeTxPayload => Sys2Proof.Machine.execWriteTxPayload s
  | .readRxPayload => Sys2Proof.Machine.execReadRxPayload s
  | .flushTx => Sys2Proof.Machine.execFlushTx s
  | .flushRx => Sys2Proof.Machine.execFlushRx s
  | .getTxStatus => Sys2Proof.Machine.execGetTxStatus s
  | .isDataReady => Sys2Proof.Machine.execIsDataReady s
  | .getRetxCount => Sys2Proof.Machine.execGetRetxCount s
  | .ceSet level => Sys2Proof.Machine.execCeSet level s
  | .delayMs ms => Sys2Proof.Machine.execDelayMs ms s
  | .bufWrite index value => Sys2Proof.Machine.execBufWrite index value s
  | .bufRead index => Sys2Proof.Machine.execBufRead index s
  | .initController channel payloadSize => Sys2Proof.Machine.execInitialize channel payloadSize s
  | .setChannel channel => Sys2Proof.Machine.execSetChannel channel s
  | .setAddress isOwnAddress => Sys2Proof.Machine.execSetAddress isOwnAddress s
  | .setRfParameters dataRate outputPower => Sys2Proof.Machine.execSetRfParameters dataRate outputPower s
  | .powerUpTx => Sys2Proof.Machine.execPowerUpTx s
  | .transmit => Sys2Proof.Machine.execTransmit s
  | .powerUpRx => Sys2Proof.Machine.execPowerUpRx s
  | .getPayload => Sys2Proof.Machine.execGetPayload s
  | .powerDown => Sys2Proof.Machine.execPowerDown s

end Sys2Proof.Machine
end

