-- ==== Sys2Proof/Machine/Step.lean ====
section
/-! DEFINITION. One step: the next input is dealt with whole. A command is one step from its acceptance to its completion, as
spec/40_bus_transaction.md R125 allows. -/

namespace Sys2Proof.Machine

/-- A word on the command port is accepted, decoded, executed and completed (R37); a reserved HOP is refused (R98). -/
def runCommand (w : CommandWord) (s : State) : Host.Outcome State Fault Refusal :=
  match decode w with
  | .ok i => complete (exec i (accept s))
  | .error _ => .refused .illegalCommand

/-- One step: the input at the head. With no input, or a word presented while BUSY = 1, the controller stays as it is
(R37: the word is not accepted, and not lost). -/
def step (s : State) : Host.Outcome State Fault Refusal :=
  match s.inputs with
  | [] => .next s
  | .rst :: _ => .next (rstInput (dropInput s))
  | .radio e :: _ => .next (radioEvent e (dropInput s))
  | .command w :: _ => if s.busy then .next s else runCommand w s
  | .commandThenRst w k :: _ =>
    if s.busy then .next s
    else
      match runCommand w s with
      | .next t => .next (abandon k s t)
      | .fault r => .fault r
      | .refused r => .refused r

/-- `s` with the word of a table row presented on the command port, ready to be accepted: first of the inputs, and BUSY = 0
(R37). There is no program counter and no memory that a command is fetched from (R27). -/
def State.withFetchWord (s : State) (nbits w : Nat) : State :=
  { s with busy := false, inputs := .command (BitVec.ofNat 32 (w % 2 ^ nbits)) :: s.inputs }

end Sys2Proof.Machine
end

