-- ==== Sys2Proof/WellFormed.lean ====
section
/-! DEFINITION. Which commands no state refuses for their word alone: the cases (a) to (d) and (f) of spec/60_exceptions.md R203.
Case (e), NotInitialized, depends on the state and stands in Sys2Proof/Safety.lean. -/

namespace Sys2Proof

/-- R100: `addr AND NOT ADDR_MASK = 0`. -/
def Config.addrInMask (c : Config) (addr : Byte) : Bool := addr &&& ~~~c.addrMask == 0#8

/-- R104: the commands a controller built without the sequence layer refuses: HOP 0x50 to 0x64, 0x20 and 0x21. -/
def Instr.needsSequenceLayer : Instr → Bool
  | .writeTxPayload | .readRxPayload => true
  | .initController _ _ | .setChannel _ | .setAddress _ | .setRfParameters _ _ => true
  | .powerUpTx | .transmit | .powerUpRx | .getPayload | .powerDown => true
  | .transact _ _ _ | .getStatus | .readReg _ | .writeReg _ _ | .readRegMulti _ _ | .writeRegMulti _ _ => false
  | .readBit _ _ | .writeBit _ _ _ | .flushTx | .flushRx | .getTxStatus | .isDataReady | .getRetxCount => false
  | .ceSet _ | .delayMs _ | .bufWrite _ _ | .bufRead _ => false

/-- R99, R100: no operand is reserved or out of range. -/
def Instr.operandsLegal (c : Config) : Instr → Bool
  | .transact _ length dir => dir.isSome && decide (length.toNat ≤ c.bufSize)
  | .readReg addr => c.addrInMask addr
  | .writeReg addr _ => c.addrInMask addr
  | .readRegMulti addr count => c.addrInMask addr && decide (count.toNat ≤ c.bufSize)
  | .writeRegMulti addr count => c.addrInMask addr && decide (count.toNat ≤ c.bufSize)
  | .readBit addr _ => c.addrInMask addr
  | .writeBit addr _ _ => c.addrInMask addr
  | .bufWrite index _ => decide (index.toNat < c.bufSize)
  | .bufRead index => decide (index.toNat < c.bufSize)
  | .initController _ payloadSize => payloadSize != 0#8
  | .setRfParameters dataRate _ => dataRate.isSome
  | .getStatus | .writeTxPayload | .readRxPayload | .flushTx | .flushRx => true
  | .getTxStatus | .isDataReady | .getRetxCount | .ceSet _ | .delayMs _ => true
  | .setChannel _ | .setAddress _ | .powerUpTx | .transmit | .powerUpRx | .getPayload | .powerDown => true

/-- The command is legal in itself: the controller has it (R104) and its operands are in range (R99, R100). -/
def Instr.wellFormed (c : Config) (i : Instr) : Bool :=
  (c.seqPresent || !i.needsSequenceLayer) && i.operandsLegal c

end Sys2Proof
end

