-- ==== Sys2Proof/Safety.lean ====
section
/-! DEFINITION. The terms claims are stated in: the frames a transaction puts on the bus (spec/30_encoding.md R90), when a command is
refused (spec/60_exceptions.md R203), which bytes of BUF a command stores to, and the invariants of spec/10_state.md R21, R28, R41. -/

namespace Sys2Proof.Machine

/-! Frames on the bus -/

/-- The WAIT event of a chip-select delay, where it is not zero (R121). -/
def chipSelectEvents (t : Nat) : List Event := if t = 0 then [] else [.wait (.chipSelect t)]

/-- The event list of one transaction (R121): command byte `cmd` out, status byte `st` in, then one exchange for each
(MOSI, MISO) pair of `io`. `prev` says whether there was a previous `CSN(1)`. -/
def frameEvents (c : Config) (prev : Bool) (cmd st : Byte) (io : List (Byte × Byte)) : List Event :=
  (if prev then chipSelectEvents c.tCsIdle else []) ++ .csn false :: chipSelectEvents c.tCsSetup ++
    .xfer cmd st :: io.map (fun p => .xfer p.1 p.2) ++ chipSelectEvents c.tCsHold ++ [.csn true]

/-- There was a `CSN(1)` before now. -/
def State.hadFrame (s : State) : Bool := s.trace.contains (.csn true)

/-- `s` after one whole transaction (R121): the slave is then `sl`, and nothing else of `s` has changed. -/
def State.afterFrame (s : State) (cmd : Byte) (d : Dir) (st : Byte) (io : List (Byte × Byte)) (sl : Slave) : State :=
  { s with
    csn := true, phase := .idle, idx := 0, cmdb := cmd, len := io.length, dir := d
    statusLatch := st, statusValid := true, slave := sl
    trace := s.trace ++ frameEvents s.cfg s.hadFrame cmd st io }

/-- `tx` is what reading BUF[0..n-1] gives: a written byte is itself, an unwritten one may be anything (R26). -/
def State.sendsBuf (s : State) (n : Nat) (tx : List Byte) : Prop :=
  tx.length = n ∧ ∀ i b, i < n → s.buf.read i = some b → tx[i]? = some b

/-- `m` is BUF after `rx` was received into it: BUF[i] = rx[i] below its length, and every other byte as it was (R121, R127). -/
def State.receives (s : State) (rx : List Byte) (m : Memory) : Prop :=
  ∀ j, m.read j = if j < rx.length then rx[j]? else s.buf.read j

/-- How many of BUF[0..n-1] nothing has written: each read of one draws a free value (R26). -/
def State.unwrittenBelow (s : State) (n : Nat) : Nat := (List.range n).countP fun i => (s.buf.read i).isNone

/-- An event with the slave's part left out. -/
def withoutMiso : Event → Event
  | .csn l => .csn l
  | .xfer m _ => .xfer m 0#8
  | .ce l => .ce l
  | .wait t => .wait t

/-- What the controller drives in an event list: everything but the MISO bytes. -/
def driven (es : List Event) : List Event := es.map withoutMiso

/-- The MISO byte of an event, where it has one. -/
def misoByte? : Event → Option Byte
  | .xfer _ b => some b
  | .csn _ => none
  | .ce _ => none
  | .wait _ => none

/-- What the controller hears in an event list: the MISO bytes, in order (R62). -/
def heard (es : List Event) : List Byte := es.filterMap misoByte?

/-- The frames of several transactions in a row, each given by its command byte and its MOSI data bytes, as the controller
drives them. -/
def drivenFrames (c : Config) : Bool → List (Byte × List Byte) → List Event
  | _, [] => []
  | prev, f :: rest => frameEvents c prev f.1 0#8 (f.2.map fun m => (m, 0#8)) ++ drivenFrames c true rest

/-- A register write as a frame (R91). -/
def writeFrame (c : Config) (reg value : Byte) : Byte × List Byte := (c.opcWRegister ||| reg, [value])

/-- The status byte of the last transaction in an event list: the MISO byte of the first exchange after the last `CSN(0)`.
`first` says whether the next exchange is the first of its frame. -/
def statusFrom : Bool → Option Byte → List Event → Option Byte
  | _, last, [] => last
  | _, last, .csn l :: es => statusFrom (!l) last es
  | first, last, .xfer _ b :: es => statusFrom false (if first then some b else last) es
  | first, last, .ce _ :: es => statusFrom first last es
  | first, last, .wait _ :: es => statusFrom first last es

/-- The status byte of the last transaction in an event list that starts outside a frame (R28). -/
def lastStatus (es : List Event) : Option Byte := statusFrom false none es

/-- Follow CSN and CE through an event list; `none` at the first event that breaks the bus protocol: an exchange while CSN is
high (R120), or chip-select driven to the level it has (R21). -/
def replay : List Event → Bool × Bool → Option (Bool × Bool)
  | [], p => some p
  | .csn l :: es, p => if p.1 = l then none else replay es (l, p.2)
  | .ce l :: es, p => replay es (p.1, l)
  | .xfer _ _ :: es, p => if p.1 then none else replay es p
  | .wait _ :: es, p => replay es p

/-! Refusals -/

/-- The commands that read PAYLOAD_SIZE before INITIALIZE has written it (R236). -/
def needsInit : Instr → Bool
  | .writeTxPayload | .readRxPayload | .transmit | .getPayload => true
  | .transact _ _ _ | .getStatus | .readReg _ | .writeReg _ _ | .readRegMulti _ _ | .writeRegMulti _ _ => false
  | .readBit _ _ | .writeBit _ _ _ | .flushTx | .flushRx | .getTxStatus | .isDataReady | .getRetxCount => false
  | .ceSet _ | .delayMs _ | .bufWrite _ _ | .bufRead _ | .initController _ _ | .setChannel _ | .setAddress _ => false
  | .setRfParameters _ _ | .powerUpTx | .powerUpRx | .powerDown => false

/-- The register address a command names (R203 d). -/
def regAddress : Instr → Option Byte
  | .readReg a | .writeReg a _ | .readRegMulti a _ | .writeRegMulti a _ | .readBit a _ | .writeBit a _ _ => some a
  | .transact _ _ _ | .getStatus | .writeTxPayload | .readRxPayload | .flushTx | .flushRx | .getTxStatus => none
  | .isDataReady | .getRetxCount | .ceSet _ | .delayMs _ | .bufWrite _ _ | .bufRead _ | .initController _ _ => none
  | .setChannel _ | .setAddress _ | .setRfParameters _ _ | .powerUpTx | .transmit | .powerUpRx | .getPayload => none
  | .powerDown => none

/-- How many bytes of BUF, from index 0, the command's operands ask for (R203 b). -/
def bufExtent : Instr → Nat
  | .transact _ n _ | .readRegMulti _ n | .writeRegMulti _ n => n.toNat
  | .bufWrite i _ | .bufRead i => i.toNat + 1
  | .getStatus | .readReg _ | .writeReg _ _ | .readBit _ _ | .writeBit _ _ _ | .writeTxPayload | .readRxPayload => 0
  | .flushTx | .flushRx | .getTxStatus | .isDataReady | .getRetxCount | .ceSet _ | .delayMs _ => 0
  | .initController _ _ | .setChannel _ | .setAddress _ | .setRfParameters _ _ | .powerUpTx | .transmit => 0
  | .powerUpRx | .getPayload | .powerDown => 0

/-- A reserved operand value (R203 c): `dir` = 3, `dataRate` = 3. -/
def hasReservedOperand : Instr → Bool
  | .transact _ _ dir => dir.isNone
  | .setRfParameters rate _ => rate.isNone
  | .getStatus | .readReg _ | .writeReg _ _ | .readRegMulti _ _ | .writeRegMulti _ _ | .readBit _ _ => false
  | .writeBit _ _ _ | .writeTxPayload | .readRxPayload | .flushTx | .flushRx | .getTxStatus | .isDataReady => false
  | .getRetxCount | .ceSet _ | .delayMs _ | .bufWrite _ _ | .bufRead _ | .initController _ _ | .setChannel _ => false
  | .setAddress _ | .powerUpTx | .transmit | .powerUpRx | .getPayload | .powerDown => false

/-- INITIALIZE with payloadSize = 0 (R203 f). -/
def asksNoPayload : Instr → Bool
  | .initController _ payloadSize => payloadSize == 0#8
  | .transact _ _ _ | .getStatus | .readReg _ | .writeReg _ _ | .readRegMulti _ _ | .writeRegMulti _ _ => false
  | .readBit _ _ | .writeBit _ _ _ | .writeTxPayload | .readRxPayload | .flushTx | .flushRx | .getTxStatus => false
  | .isDataReady | .getRetxCount | .ceSet _ | .delayMs _ | .bufWrite _ _ | .bufRead _ | .setChannel _ => false
  | .setAddress _ | .setRfParameters _ _ | .powerUpTx | .transmit | .powerUpRx | .getPayload | .powerDown => false

/-- The refusals of R203, tested in the order R206 (4) gives: that of each command's pseudocode. -/
def refusalOf (s : State) (i : Instr) : Option Refusal :=
  if i.needsSequenceLayer && !s.cfg.seqPresent then some .illegalCommand
  else if hasReservedOperand i then some .reservedOperand
  else if (regAddress i).any (fun a => clearBits a s.cfg.addrMask != 0#8) then some .addressOutOfRange
  else if s.cfg.bufSize < bufExtent i then some .lengthOutOfRange
  else if needsInit i && !s.initDone then some .notInitialized
  else if asksNoPayload i then some .payloadSizeZero
  else none

/-- The command runs: its word is legal (R99, R100, R104), and it is not a payload command before INITIALIZE (R236). -/
def State.ready (s : State) (i : Instr) : Prop := i.wellFormed s.cfg = true ∧ (needsInit i = true → s.initDone = true)

/-! The bytes of BUF a command stores to -/

/-- How many bytes of BUF, from index 0, the command stores received bytes into, by its own pseudocode (R127, R133, R142, R184).
R26 names every receiving transaction as a writer of BUF; that the one-byte reads of READ_REG (R131), READ_BIT, WRITE_BIT,
IS_DATA_READY, GET_RETX_COUNT and POWER_DOWN store nothing is the model's reading of it (notes/assumptions/31.md). -/
def receivedBytes (s : State) : Instr → Nat
  | .transact _ n (some .recv) | .transact _ n (some .duplex) | .readRegMulti _ n => n.toNat
  | .readRxPayload | .getPayload => s.payloadSize.toNat
  | .transact _ _ (some .send) | .transact _ _ none | .getStatus | .readReg _ | .writeReg _ _ | .writeRegMulti _ _ => 0
  | .readBit _ _ | .writeBit _ _ _ | .writeTxPayload | .flushTx | .flushRx | .getTxStatus | .isDataReady => 0
  | .getRetxCount | .ceSet _ | .delayMs _ | .bufWrite _ _ | .bufRead _ | .initController _ _ | .setChannel _ => 0
  | .setAddress _ | .setRfParameters _ _ | .powerUpTx | .transmit | .powerUpRx | .powerDown => 0

/-- The command stores to BUF[j]: BUF_WRITE to its index, the commands of `receivedBytes` to indices 0 to LEN - 1 (R26). -/
def storesTo (s : State) (i : Instr) (j : Nat) : Prop :=
  (∃ index value, i = .bufWrite index value ∧ j = index.toNat) ∨ j < receivedBytes s i

/-! The reference slave -/

/-- The shape R80 gives the reference slave's registers: one list for each address within ADDR_MASK, of ADDR_LEN bytes for the
two address registers and of one byte for every other. -/
def RefSlave.Shaped (c : Config) (r : RefSlave) : Prop :=
  r.regs.length = c.addrMask.toNat + 1 ∧
    ∀ a, a < r.regs.length →
      (r.regs.getD a []).length = if a = c.regRxAddrP0.toNat ∨ a = c.regTxAddr.toNat then c.addrLen else 1

/-! Invariants -/

/-- R41, first sentence: between commands the engine is idle. -/
def State.EngineIdle (s : State) : Prop := s.busy = false → s.phase = .idle ∧ s.idx = 0 ∧ s.csn = true

/-- R41, second sentence: the size of an initialised controller is legal. -/
def State.PayloadLegal (s : State) : Prop :=
  s.initDone = true → s.cfg.minPayload.toNat ≤ s.payloadSize.toNat ∧ s.payloadSize.toNat ≤ s.cfg.maxPayload.toNat

/-- R41, third sentence: the cache is the sentinel or a legal channel. -/
def State.CacheLegal (s : State) : Prop := s.channelCache = s.cfg.chSentinel ∨ s.channelCache ≤ s.cfg.chMax

/-- R26: BUF is in its canonical form and has BUF_SIZE bytes. -/
def State.BufLegal (s : State) : Prop := Memory.wf s.buf ∧ ∀ cell ∈ s.buf, cell.1 < s.cfg.bufSize

/-- The controller's invariant: the parameters meet their requirements (R5), R41, the buffer (R26), and R30's "the value 3 is
never produced". -/
structure State.Inv (s : State) : Prop where
  cfgOk : s.cfg.Ok
  engineIdle : s.EngineIdle
  payloadLegal : s.PayloadLegal
  cacheLegal : s.CacheLegal
  bufLegal : s.BufLegal
  resCode : s.resCode ≠ 3#2

/-- The pins' invariant: from the levels at reset (R40), the events so far break no rule of the bus and lead to the levels CSN
and CE have now (R21, R22); between commands the engine is idle; and a valid STATUS_LATCH holds the status byte of the most
recent transaction (R28). -/
structure State.BusInv (s : State) : Prop where
  replayed : replay s.trace (true, false) = some (s.csn, s.ce)
  engineIdle : s.EngineIdle
  latched : s.statusValid = true → lastStatus s.trace = some s.statusLatch

end Sys2Proof.Machine
end

