-- ==== Sys2Proof/Certificates/Slice0/Obligations.lean ====
section
/-! DEFINITION. The statements about the model, each formalising rules of spec/. In each, the slave after a command (`sl`) and the
bytes it answered with are whatever they are (spec/20_memory.md R62): the statements hold for every slave. A next state written as
`s` with some fields changed says that every other field is unchanged. -/

open Sys2Proof Sys2Proof.Machine

/-! Encoding (spec/30_encoding.md) -/

/-- The decoder reads back every command the encoder writes, with every operand at every value. -/
def Obligations.DecodeOfEncodeIsTheCommand : Prop := ∀ i : Instr, decode (encode i) = .ok i

/-- R93: the bits a command does not use are ignored. A word that decodes to `i` is `encode i` on the bits `i` uses, and every
word that agrees with it on those bits decodes to `i` too. -/
def Obligations.UnusedBitsAreIgnored : Prop :=
  ∀ (w : CommandWord) (i : Instr), decode w = .ok i →
    encode i = w &&& i.usedBits ∧ ∀ w' : CommandWord, w' &&& i.usedBits = w &&& i.usedBits → decode w' = .ok i

/-- R98: a word whose HOP is none of the 28 is refused with IllegalCommand, and so it changes nothing; every other word
decodes. -/
def Obligations.ReservedHopIsRefused : Prop :=
  ∀ w : CommandWord,
    let known : List Byte := [0x01, 0x02, 0x10, 0x11, 0x12, 0x13, 0x14, 0x15, 0x20, 0x21, 0x22, 0x23, 0x30, 0x31, 0x32,
      0x40, 0x41, 0x42, 0x43, 0x50, 0x51, 0x52, 0x53, 0x60, 0x61, 0x62, 0x63, 0x64]
    (hopField w ∈ known → ∃ i, decode w = .ok i ∧ i.hop = hopField w) ∧
    (hopField w ∉ known → decode w = .error (.reservedHop (hopField w)) ∧
      ∀ (s : State) (rest : List Input), s.busy = false → s.inputs = .command w :: rest →
        step s = .refused .illegalCommand)

/-- Words written out from the encodings of R93, R94 and R97 (those of spec/95_test_vectors.md), one or more a family. -/
def Obligations.WorkedWordsDecode : Prop :=
  decode 0x010A0501#32 = .ok (.transact 0x0A 5 (some .recv)) ∧
  decode 0x01FF0103#32 = .ok (.transact 0xFF 1 none) ∧
  decode 0x02ABCDEF#32 = .ok .getStatus ∧
  decode 0x11077000#32 = .ok (.writeReg 0x07 0x70) ∧
  decode 0x14000F00#32 = .ok (.readBit 0x00 7) ∧
  decode 0x21000000#32 = .ok .readRxPayload ∧
  decode 0x4100012C#32 = .ok (.delayMs 300) ∧
  decode 0x421F5A00#32 = .ok (.bufWrite 31 0x5A) ∧
  decode 0x500A1400#32 = .ok (.initController 10 20) ∧
  decode 0x5306FF00#32 = .ok (.setRfParameters (some .dr250K) .pwr3) ∧
  decode 0x64000000#32 = .ok .powerDown ∧
  decode 0x16000000#32 = .error (.reservedHop 0x16)

/-! The step (spec/10_state.md R37) -/

/-- With BUSY = 0 and a word on the command port that decodes to `i`, one step is `exec i` on the accepted state (the word
taken from the inputs, BUSY = 1), and BUSY returns to 0 when it completes; a refusal of `exec` ends the run. The queue of inputs is
the model's choice (log entry 10). -/
def Obligations.StepRunsTheDecodedCommand : Prop :=
  ∀ (s : State) (w : CommandWord) (rest : List Input) (i : Instr),
    s.busy = false → s.inputs = .command w :: rest → decode w = .ok i →
      (∀ t, exec i { s with inputs := rest, busy := true } = .next t → step s = .next { t with busy := false }) ∧
      (∀ r, exec i { s with inputs := rest, busy := true } = .refused r → step s = .refused r)

/-- R37: a command presented while BUSY = 1 is not accepted, and it is not lost; nothing presented, nothing happens. The queue of
inputs and the step that leaves it alone are the model's (log entries 10 and 11). -/
def Obligations.BusyPortAcceptsNothing : Prop :=
  ∀ (s : State) (w : CommandWord) (rest : List Input),
    (s.busy = true → s.inputs = .command w :: rest → step s = .next s) ∧ (s.inputs = [] → step s = .next s)

/-! The bus transaction engine (spec/40_bus_transaction.md) -/

/-- R127, TRANSACT. -/
def Obligations.TransactRunsOneFrame : Prop :=
  (∀ w, hopField w = 0x01#8 →
    decode w = .ok (.transact (aField w) (bField w) (dirOfCode ((cField w).extractLsb' 0 2)))) ∧
  ∀ (s : State) (cmd len : Byte),
    exec (.transact cmd len none) s = .refused .reservedOperand ∧
    (∀ d, s.cfg.bufSize < len.toNat → exec (.transact cmd len (some d)) s = .refused .lengthOutOfRange) ∧
    (len.toNat ≤ s.cfg.bufSize →
      (∃ tx st rx sl k, s.sendsBuf len.toNat tx ∧ rx.length = len.toNat ∧
        exec (.transact cmd len (some .send)) s =
          .next { s.afterFrame cmd .send st (tx.zip rx) sl with draws := k, resErr := false }) ∧
      (∃ st rx sl m, rx.length = len.toNat ∧ s.receives rx m ∧
        exec (.transact cmd len (some .recv)) s =
          .next { s.afterFrame cmd .recv st (rx.map fun b => (s.cfg.dummyByte, b)) sl with
            buf := m, resErr := false }) ∧
      (∃ tx st rx sl k m, s.sendsBuf len.toNat tx ∧ rx.length = len.toNat ∧ s.receives rx m ∧
        exec (.transact cmd len (some .duplex)) s =
          .next { s.afterFrame cmd .duplex st (tx.zip rx) sl with draws := k, buf := m, resErr := false }))

/-- R62, R120, R124: the controller takes what the slave answers, byte by byte and unseen. Whatever bytes an unknown slave has
ready, each command that returns or stores received bytes returns and stores exactly those, in order, latches the first of its
last frame as the status byte, and takes no more of them. What each returns is its own rule: R127, R131, R133, R135, R136, R142,
R151, R152, R154, R155, R184 and R185. That POWER_DOWN leaves the byte it writes back in RES_DATA is a reading of R170 and R185
(log entry 17). The list of bytes an unknown slave has ready is the model's form of the free input (log entry 7). -/
def Obligations.ReceivedBytesAreTheSlaves : Prop :=
  ∀ (s : State) (slave : Nat) (st st₂ b b₂ : Byte) (rx later : List Byte),
    (∀ (cmd len : Byte) (d : Dir), d ≠ .send → rx.length = len.toNat → len.toNat ≤ s.cfg.bufSize →
      s.slave = .oracle slave (st :: rx ++ later) →
      ∃ t, exec (.transact cmd len (some d)) s = .next t ∧ t.statusLatch = st ∧ s.receives rx t.buf ∧
        t.slave = .oracle slave later) ∧
    (∀ (addr count : Byte), clearBits addr s.cfg.addrMask = 0#8 → rx.length = count.toNat →
      count.toNat ≤ s.cfg.bufSize → s.slave = .oracle slave (st :: rx ++ later) →
      ∃ t, exec (.readRegMulti addr count) s = .next t ∧ t.statusLatch = st ∧ s.receives rx t.buf ∧
        t.slave = .oracle slave later) ∧
    (∀ addr : Byte, clearBits addr s.cfg.addrMask = 0#8 → s.slave = .oracle slave (st :: b :: later) →
      (∃ t, exec (.readReg addr) s = .next t ∧ t.statusLatch = st ∧ t.resData = b ∧ t.slave = .oracle slave later) ∧
      ∀ k : BitVec 3, ∃ t, exec (.readBit addr k) s = .next t ∧ t.statusLatch = st ∧ t.resData = b ∧
        t.resFlag = b.getLsbD k.toNat ∧ t.slave = .oracle slave later) ∧
    (∀ (addr : Byte) (k : BitVec 3) (v : Bool), clearBits addr s.cfg.addrMask = 0#8 →
      s.slave = .oracle slave (st :: b :: st₂ :: b₂ :: later) →
      ∃ t, exec (.writeBit addr k v) s = .next t ∧ t.statusLatch = st₂ ∧
        (∀ j, j < 8 → t.resData.getLsbD j = if j = k.toNat then v else b.getLsbD j) ∧
        t.slave = .oracle slave later) ∧
    (s.cfg.seqPresent = true → s.slave = .oracle slave (st :: b :: st₂ :: b₂ :: later) →
      ∃ t, exec .powerDown s = .next t ∧ t.statusLatch = st₂ ∧
        (∀ j, j < 8 → t.resData.getLsbD j = if j = s.cfg.bitPwrUp then false else b.getLsbD j) ∧
        t.slave = .oracle slave later) ∧
    (s.cfg.seqPresent = true → s.initDone = true → rx.length = s.payloadSize.toNat →
      (s.slave = .oracle slave (st :: rx ++ later) →
        ∃ t, exec .readRxPayload s = .next t ∧ t.statusLatch = st ∧ s.receives rx t.buf ∧
          t.slave = .oracle slave later) ∧
      (s.slave = .oracle slave (st :: rx ++ st₂ :: b₂ :: later) →
        ∃ t, exec .getPayload s = .next t ∧ t.statusLatch = st₂ ∧ s.receives rx t.buf ∧
          t.slave = .oracle slave later)) ∧
    (s.slave = .oracle slave (st :: later) →
      (∃ t, exec .getStatus s = .next t ∧ t.statusLatch = st ∧ t.resData = st ∧ t.slave = .oracle slave later) ∧
      (∃ t, exec .getTxStatus s = .next t ∧ t.statusLatch = st ∧ t.resData = st ∧
        t.resCode = outcomeCode (txOutcome s.cfg st) ∧ t.slave = .oracle slave later) ∧
      (st.getLsbD s.cfg.bitRxDr = true →
        ∃ t, exec .isDataReady s = .next t ∧ t.statusLatch = st ∧ t.resFlag = true ∧ t.slave = .oracle slave later)) ∧
    (st.getLsbD s.cfg.bitRxDr = false → s.slave = .oracle slave (st :: st₂ :: b :: later) →
      ∃ t, exec .isDataReady s = .next t ∧ t.statusLatch = st₂ ∧ t.resFlag = !b.getLsbD s.cfg.bitRxEmpty ∧
        t.slave = .oracle slave later) ∧
    (s.slave = .oracle slave (st :: b :: later) →
      ∃ t, exec .getRetxCount s = .next t ∧ t.statusLatch = st ∧ t.resData = b &&& s.cfg.retxMask ∧
        t.slave = .oracle slave later)

/-- R62, R64, R120 for all 28 commands: the MISO bytes in the events of a command are the bytes an unknown slave had ready, in
order and none left out, as far as they go; the slave keeps the rest. So every status byte and every received byte that the other
statements leave open is the slave's. The list of bytes it has ready is the model's form of the free input (log entry 7). -/
def Obligations.EveryCommandHearsTheSlaveInOrder : Prop :=
  ∀ (s t : State) (i : Instr) (slave : Nat) (answers : List Byte),
    s.slave = .oracle slave answers → exec i s = .next t →
    ∃ es, t.trace = s.trace ++ es ∧ (heard es).take answers.length = answers.take (heard es).length ∧
      t.slave = .oracle slave (answers.drop (heard es).length)

/-! The register access layer (spec/41_register_access.md) -/

/-- R131, READ_REG. -/
def Obligations.ReadRegReturnsTheByte : Prop :=
  (∀ w, hopField w = 0x10#8 → decode w = .ok (.readReg (aField w))) ∧
  ∀ (s : State) (addr : Byte),
    (clearBits addr s.cfg.addrMask ≠ 0#8 → exec (.readReg addr) s = .refused .addressOutOfRange) ∧
    (clearBits addr s.cfg.addrMask = 0#8 → ∃ st b sl,
      exec (.readReg addr) s =
        .next { s.afterFrame (s.cfg.opcRRegister ||| addr) .recv st [(s.cfg.dummyByte, b)] sl with
          resData := b, resErr := false })

/-- R132, WRITE_REG. -/
def Obligations.WriteRegSendsTheValue : Prop :=
  (∀ w, hopField w = 0x11#8 → decode w = .ok (.writeReg (aField w) (bField w))) ∧
  ∀ (s : State) (addr value : Byte),
    (clearBits addr s.cfg.addrMask ≠ 0#8 → exec (.writeReg addr value) s = .refused .addressOutOfRange) ∧
    (clearBits addr s.cfg.addrMask = 0#8 → ∃ st b sl,
      exec (.writeReg addr value) s =
        .next { s.afterFrame (s.cfg.opcWRegister ||| addr) .send st [(value, b)] sl with resErr := false })

/-- R133, READ_REG_MULTI. -/
def Obligations.ReadRegMultiFillsBuf : Prop :=
  (∀ w, hopField w = 0x12#8 → decode w = .ok (.readRegMulti (aField w) (bField w))) ∧
  ∀ (s : State) (addr count : Byte),
    (clearBits addr s.cfg.addrMask ≠ 0#8 → exec (.readRegMulti addr count) s = .refused .addressOutOfRange) ∧
    (clearBits addr s.cfg.addrMask = 0#8 → s.cfg.bufSize < count.toNat →
      exec (.readRegMulti addr count) s = .refused .lengthOutOfRange) ∧
    (clearBits addr s.cfg.addrMask = 0#8 → count.toNat ≤ s.cfg.bufSize →
      ∃ st rx sl m, rx.length = count.toNat ∧ s.receives rx m ∧
        exec (.readRegMulti addr count) s =
          .next { s.afterFrame (s.cfg.opcRRegister ||| addr) .recv st (rx.map fun b => (s.cfg.dummyByte, b)) sl with
            buf := m, resErr := false })

/-- R134, WRITE_REG_MULTI. -/
def Obligations.WriteRegMultiSendsBuf : Prop :=
  (∀ w, hopField w = 0x13#8 → decode w = .ok (.writeRegMulti (aField w) (bField w))) ∧
  ∀ (s : State) (addr count : Byte),
    (clearBits addr s.cfg.addrMask ≠ 0#8 → exec (.writeRegMulti addr count) s = .refused .addressOutOfRange) ∧
    (clearBits addr s.cfg.addrMask = 0#8 → s.cfg.bufSize < count.toNat →
      exec (.writeRegMulti addr count) s = .refused .lengthOutOfRange) ∧
    (clearBits addr s.cfg.addrMask = 0#8 → count.toNat ≤ s.cfg.bufSize →
      ∃ tx st rx sl k, s.sendsBuf count.toNat tx ∧ rx.length = count.toNat ∧
        exec (.writeRegMulti addr count) s =
          .next { s.afterFrame (s.cfg.opcWRegister ||| addr) .send st (tx.zip rx) sl with
            draws := k, resErr := false })

/-- R135, READ_BIT: RES_FLAG is the bit of the byte read. That the read leaves BUF unchanged is the model's reading of R26 beside
R135 (log entry 31). -/
def Obligations.ReadBitReturnsTheBit : Prop :=
  (∀ w, hopField w = 0x14#8 → decode w = .ok (.readBit (aField w) ((bField w).extractLsb' 0 3))) ∧
  ∀ (s : State) (addr : Byte) (k : BitVec 3),
    (clearBits addr s.cfg.addrMask ≠ 0#8 → exec (.readBit addr k) s = .refused .addressOutOfRange) ∧
    (clearBits addr s.cfg.addrMask = 0#8 → ∃ st b sl,
      exec (.readBit addr k) s =
        .next { s.afterFrame (s.cfg.opcRRegister ||| addr) .recv st [(s.cfg.dummyByte, b)] sl with
          resData := b, resFlag := b.getLsbD k.toNat, resErr := false })

/-- R136, WRITE_BIT: two frames, and the byte written back differs from the byte read at most in the named bit. That the
read frame leaves BUF unchanged is the model's reading of R26 beside R136 (log entry 31). -/
def Obligations.WriteBitChangesOneBit : Prop :=
  (∀ w, hopField w = 0x15#8 →
    decode w = .ok (.writeBit (aField w) ((bField w).extractLsb' 0 3) ((cField w).getLsbD 0))) ∧
  ∀ (s : State) (addr : Byte) (k : BitVec 3) (v : Bool),
    (clearBits addr s.cfg.addrMask ≠ 0#8 → exec (.writeBit addr k v) s = .refused .addressOutOfRange) ∧
    (clearBits addr s.cfg.addrMask = 0#8 →
      ∃ (st₁ old : Byte) (sl₁ : Slave) (st₂ new b : Byte) (sl₂ : Slave),
      (∀ j, j < 8 → new.getLsbD j = if j = k.toNat then v else old.getLsbD j) ∧
      exec (.writeBit addr k v) s =
        .next { (s.afterFrame (s.cfg.opcRRegister ||| addr) .recv st₁ [(s.cfg.dummyByte, old)] sl₁).afterFrame
            (s.cfg.opcWRegister ||| addr) .send st₂ [(new, b)] sl₂ with
          resData := new, resErr := false })

/-! Payload and FIFO commands (spec/42_payload_fifo.md) -/

/-- R141, R142: WRITE_TX_PAYLOAD and READ_RX_PAYLOAD move exactly PAYLOAD_SIZE bytes, and are refused while INIT_DONE = 0. -/
def Obligations.PayloadCommandsMoveTheFixedSize : Prop :=
  (∀ w, hopField w = 0x20#8 → decode w = .ok .writeTxPayload) ∧
  (∀ w, hopField w = 0x21#8 → decode w = .ok .readRxPayload) ∧
  ∀ s : State, s.cfg.seqPresent = true →
    (s.initDone = false →
      exec .writeTxPayload s = .refused .notInitialized ∧ exec .readRxPayload s = .refused .notInitialized) ∧
    (s.initDone = true →
      (∃ tx st rx sl k, s.sendsBuf s.payloadSize.toNat tx ∧ rx.length = s.payloadSize.toNat ∧
        exec .writeTxPayload s =
          .next { s.afterFrame s.cfg.opcWTxPayload .send st (tx.zip rx) sl with draws := k, resErr := false }) ∧
      (∃ tx st rx sl k m, s.sendsBuf s.payloadSize.toNat tx ∧ rx.length = s.payloadSize.toNat ∧ s.receives rx m ∧
        exec .readRxPayload s =
          .next { s.afterFrame s.cfg.opcRRxPayload .duplex st (tx.zip rx) sl with
            draws := k, buf := m, resErr := false }))

/-- R143, R144: FLUSH_TX and FLUSH_RX are the command byte alone, before INITIALIZE as after it. -/
def Obligations.FlushCommandsSendOneByte : Prop :=
  (∀ w, hopField w = 0x22#8 → decode w = .ok .flushTx) ∧
  (∀ w, hopField w = 0x23#8 → decode w = .ok .flushRx) ∧
  ∀ s : State,
    (∃ st sl, exec .flushTx s = .next { s.afterFrame s.cfg.opcFlushTx .send st [] sl with resErr := false }) ∧
    (∃ st sl, exec .flushRx s = .next { s.afterFrame s.cfg.opcFlushRx .send st [] sl with resErr := false })

/-! Status decode (spec/43_status_decode.md) -/

/-- R150, R156, R28: the decoder is the bits of the byte at the parameters' positions, and its outputs show it at all times, of
STATUS_LATCH once that is valid; before, a read of STATUS_LATCH yields any byte and moves the counter of draws, which is the
model's own (R28; log entry 9). -/
def Obligations.StatusByteDecodesByPosition : Prop :=
  ∀ (s : State) (b : Byte),
    (decodeStatus s.cfg b).dataReady = b.getLsbD s.cfg.bitRxDr ∧
    (decodeStatus s.cfg b).txOk = b.getLsbD s.cfg.bitTxDs ∧
    (decodeStatus s.cfg b).maxRt = b.getLsbD s.cfg.bitMaxRt ∧
    (∀ j, (decodeStatus s.cfg b).pipeNo.testBit j =
      (decide (s.cfg.pipeLo + j ≤ s.cfg.pipeHi) && b.getLsbD (s.cfg.pipeLo + j))) ∧
    (∃ latched k, decoderOutputs s = (decodeStatus s.cfg latched, { s with draws := k }) ∧
      (s.statusValid = true → latched = s.statusLatch ∧ k = s.draws))

/-- R153: the truth table of TxOutcome, with the codes of RES_CODE. -/
def Obligations.OutcomeTestsSuccessFirst : Prop :=
  ∀ (c : Config) (b : Byte),
    (b.getLsbD c.bitTxDs = true → outcomeCode (txOutcome c b) = 1#2) ∧
    (b.getLsbD c.bitTxDs = false → b.getLsbD c.bitMaxRt = true → outcomeCode (txOutcome c b) = 2#2) ∧
    (b.getLsbD c.bitTxDs = false → b.getLsbD c.bitMaxRt = false → outcomeCode (txOutcome c b) = 0#2)

/-- R151, GET_STATUS. -/
def Obligations.GetStatusReturnsTheStatusByte : Prop :=
  (∀ w, hopField w = 0x02#8 → decode w = .ok .getStatus) ∧
  ∀ s : State, ∃ st sl,
    exec .getStatus s = .next { s.afterFrame s.cfg.opcNop .send st [] sl with resData := st, resErr := false }

/-- R152, GET_TX_STATUS: RES_CODE is the outcome of the status byte fetched by this command. -/
def Obligations.GetTxStatusDecodesAFreshByte : Prop :=
  (∀ w, hopField w = 0x30#8 → decode w = .ok .getTxStatus) ∧
  ∀ s : State, ∃ st sl,
    exec .getTxStatus s =
      .next { s.afterFrame s.cfg.opcNop .send st [] sl with
        resData := st
        resCode := if st.getLsbD s.cfg.bitTxDs then 1#2 else if st.getLsbD s.cfg.bitMaxRt then 2#2 else 0#2
        resErr := false }

/-- R154, IS_DATA_READY: one frame when the data-ready bit is set, a second that reads REG_FIFO_STATUS when it is clear. That
the second frame leaves BUF unchanged is the model's reading of R26 beside R154 (log entry 31). -/
def Obligations.IsDataReadyFallsBackToTheFifo : Prop :=
  (∀ w, hopField w = 0x31#8 → decode w = .ok .isDataReady) ∧
  ∀ s : State, ∃ st sl,
    (st.getLsbD s.cfg.bitRxDr = true ∧
      exec .isDataReady s =
        .next { s.afterFrame s.cfg.opcNop .send st [] sl with resFlag := true, resErr := false }) ∨
    (st.getLsbD s.cfg.bitRxDr = false ∧ ∃ st₂ b sl₂,
      exec .isDataReady s =
        .next { (s.afterFrame s.cfg.opcNop .send st [] sl).afterFrame
            (s.cfg.opcRRegister ||| s.cfg.regFifoStatus) .recv st₂ [(s.cfg.dummyByte, b)] sl₂ with
          resFlag := !b.getLsbD s.cfg.bitRxEmpty, resErr := false })

/-- R155, GET_RETX_COUNT: with the parameters as required, the count is at most 15. That the read leaves BUF unchanged is the
model's reading of R26 beside R155 (log entry 31). -/
def Obligations.GetRetxCountReturnsTheLowBits : Prop :=
  (∀ w, hopField w = 0x32#8 → decode w = .ok .getRetxCount) ∧
  ∀ s : State, s.cfg.Ok → ∃ st b sl, (b &&& s.cfg.retxMask).toNat ≤ 15 ∧
    exec .getRetxCount s =
      .next { s.afterFrame (s.cfg.opcRRegister ||| s.cfg.regObserveTx) .recv st [(s.cfg.dummyByte, b)] sl with
        resData := b &&& s.cfg.retxMask, resErr := false }

/-! Lines, delay and buffer (spec/44_lines_delay_buffer.md) -/

/-- R161, CE_SET: the event is recorded even when the level does not change. -/
def Obligations.CeSetDrivesTheEnableLine : Prop :=
  (∀ w, hopField w = 0x40#8 → decode w = .ok (.ceSet ((cField w).getLsbD 0))) ∧
  ∀ (s : State) (l : Bool),
    exec (.ceSet l) s = .next { s with ce := l, trace := s.trace ++ [.ce l], resErr := false }

/-- R162, DELAY_MS: nothing but the WAIT event and RES_ERR. -/
def Obligations.DelayOnlyWaits : Prop :=
  (∀ w, hopField w = 0x41#8 →
    ∃ ms, decode w = .ok (.delayMs ms) ∧ ms.toNat = (bField w).toNat * 256 + (cField w).toNat) ∧
  ∀ (s : State) (ms : BitVec 16),
    exec (.delayMs ms) s = .next { s with trace := s.trace ++ [.wait (.ms ms.toNat)], resErr := false }

/-- R163, BUF_WRITE: one byte written, every other byte as it was, no event. -/
def Obligations.BufWriteStoresOneByte : Prop :=
  (∀ w, hopField w = 0x42#8 → decode w = .ok (.bufWrite (aField w) (bField w))) ∧
  ∀ (s : State) (index value : Byte),
    (s.cfg.bufSize ≤ index.toNat → exec (.bufWrite index value) s = .refused .lengthOutOfRange) ∧
    (index.toNat < s.cfg.bufSize → ∃ m : Memory,
      (∀ j, m.read j = if j = index.toNat then some value else s.buf.read j) ∧
      exec (.bufWrite index value) s = .next { s with buf := m, resErr := false })

/-- R164, BUF_READ: a written byte is returned; an unwritten one yields some byte and stays unwritten (the counter of draws moves;
it is the model's own). -/
def Obligations.BufReadReturnsTheByte : Prop :=
  (∀ w, hopField w = 0x43#8 → decode w = .ok (.bufRead (aField w))) ∧
  ∀ (s : State) (index : Byte),
    (s.cfg.bufSize ≤ index.toNat → exec (.bufRead index) s = .refused .lengthOutOfRange) ∧
    (index.toNat < s.cfg.bufSize →
      (∀ b, s.buf.read index.toNat = some b → exec (.bufRead index) s = .next { s with resData := b, resErr := false }) ∧
      (s.buf.read index.toNat = none → ∃ b k,
        exec (.bufRead index) s = .next { s with resData := b, draws := k, resErr := false }))

/-! Device configuration (spec/45_device_configuration.md) -/

/-- R171, INITIALIZE: sixteen frames after CE low and the settle delay, a function of the operands, DeviceState and the
parameters alone; RES_ERR = 1 exactly when channel > CH_MAX. -/
def Obligations.InitializeRunsElevenSteps : Prop :=
  (∀ w, hopField w = 0x50#8 → decode w = .ok (.initController (aField w) (bField w))) ∧
  ∀ (s : State) (channel payloadSize : Byte), s.cfg.Ok → s.cfg.seqPresent = true →
    exec (.initController channel 0#8) s = .refused .payloadSizeZero ∧
    (payloadSize ≠ 0#8 → ∃ (n : BitVec 6) (es : List Event) (st : Byte) (sl : Slave),
      n.toNat = min payloadSize.toNat s.cfg.maxPayload.toNat ∧
      driven es = [.ce false, .wait (.ms s.cfg.tSettleMs)] ++ drivenFrames s.cfg s.hadFrame
        ([writeFrame s.cfg s.cfg.regConfig s.cfg.cfgBase, writeFrame s.cfg s.cfg.regSetupRetr s.cfg.retrValue,
          writeFrame s.cfg s.cfg.regRfSetup (rfSetup s.cfg s.dataRate s.txPower),
          writeFrame s.cfg s.cfg.regDynpd s.cfg.dynpdOff, writeFrame s.cfg s.cfg.regFeature s.cfg.featureOff,
          writeFrame s.cfg s.cfg.regStatus s.cfg.clrAll,
          writeFrame s.cfg s.cfg.regRfCh (if channel ≤ s.cfg.chMax then channel else s.cfg.chFallback),
          (s.cfg.opcFlushTx, []), (s.cfg.opcFlushRx, [])] ++
        s.cfg.regRxPw.map (fun a => writeFrame s.cfg a (n.setWidth 8)) ++
        [writeFrame s.cfg s.cfg.regConfig s.cfg.cfgTx]) ∧
      lastStatus es = some st ∧
      exec (.initController channel payloadSize) s =
        .next { s with
          payloadSize := n, initDone := true
          channelCache := if channel ≤ s.cfg.chMax then channel else s.cfg.chSentinel
          ce := false, csn := true, phase := .idle, idx := 0
          cmdb := s.cfg.opcWRegister ||| s.cfg.regConfig, len := 1, dir := .send
          statusLatch := st, statusValid := true, slave := sl, trace := s.trace ++ es
          resErr := decide (s.cfg.chMax < channel) })

/-- §8's property, R171 step 1: a payload size above MAX_PAYLOAD behaves as MAX_PAYLOAD. Two runs from one state are compared,
and both meet the same oracle: an unknown slave answers the same history with the same byte (log entry 6). -/
def Obligations.InitializeClampsThePayloadSize : Prop :=
  ∀ (s : State) (channel p q : Byte), s.cfg.Ok → s.cfg.maxPayload ≤ p → s.cfg.maxPayload ≤ q →
    exec (.initController channel p) s = exec (.initController channel q) s

/-- R172, SET_CHANNEL: one acceptance test; one rejection for both causes, which leaves the cache alone. -/
def Obligations.SetChannelAcceptsOrFallsBack : Prop :=
  (∀ w, hopField w = 0x51#8 → decode w = .ok (.setChannel (aField w))) ∧
  ∀ (s : State) (channel : Byte), s.cfg.seqPresent = true →
    (channel ≤ s.cfg.chMax ∧ channel ≠ s.channelCache → ∃ st b sl,
      exec (.setChannel channel) s =
        .next { s.afterFrame (s.cfg.opcWRegister ||| s.cfg.regRfCh) .send st [(channel, b)] sl with
          channelCache := channel, resErr := false }) ∧
    (¬(channel ≤ s.cfg.chMax ∧ channel ≠ s.channelCache) → ∃ st b sl,
      exec (.setChannel channel) s =
        .next { s.afterFrame (s.cfg.opcWRegister ||| s.cfg.regRfCh) .send st [(s.cfg.chFallback, b)] sl with
          resErr := true })

/-- §8's property, R172, R248: in every state, of two SET_CHANNEL of one legal channel in a row the second reports an error,
writes CH_FALLBACK and leaves that channel in the cache. -/
def Obligations.RepeatedChannelIsRejected : Prop :=
  ∀ (s : State) (channel : Byte), s.cfg.seqPresent = true → channel ≤ s.cfg.chMax →
    ∃ t u st b, exec (.setChannel channel) s = .next t ∧ exec (.setChannel channel) t = .next u ∧
      u.resErr = true ∧ u.channelCache = channel ∧
      u.trace = t.trace ++ frameEvents s.cfg true (s.cfg.opcWRegister ||| s.cfg.regRfCh) st [(s.cfg.chFallback, b)]

/-- R173, SET_ADDRESS: the pipe-0 receive address always, and for a peer address the transmit address too. -/
def Obligations.SetAddressWritesTheAddress : Prop :=
  (∀ w, hopField w = 0x52#8 → decode w = .ok (.setAddress ((cField w).getLsbD 0))) ∧
  ∀ s : State, s.cfg.seqPresent = true →
    (∃ tx st rx sl k, s.sendsBuf s.cfg.addrLen tx ∧ rx.length = s.cfg.addrLen ∧
      exec (.setAddress true) s =
        .next { s.afterFrame (s.cfg.opcWRegister ||| s.cfg.regRxAddrP0) .send st (tx.zip rx) sl with
          draws := k, resErr := false }) ∧
    (∃ tx st rx sl tx₂ st₂ rx₂ sl₂ k, s.sendsBuf s.cfg.addrLen tx ∧ rx.length = s.cfg.addrLen ∧
      s.sendsBuf s.cfg.addrLen tx₂ ∧ rx₂.length = s.cfg.addrLen ∧
      exec (.setAddress false) s =
        .next { (s.afterFrame (s.cfg.opcWRegister ||| s.cfg.regRxAddrP0) .send st (tx.zip rx) sl).afterFrame
            (s.cfg.opcWRegister ||| s.cfg.regTxAddr) .send st₂ (tx₂.zip rx₂) sl₂ with
          draws := k, resErr := false })

/-- R174, SET_RF_PARAMETERS: the whole register is rewritten, with the rate's bit and the power's field and every other bit
0, and DeviceState keeps the two values. -/
def Obligations.SetRfParametersRewritesTheRegister : Prop :=
  (∀ w, hopField w = 0x53#8 →
    decode w = .ok (.setRfParameters (dataRateOfCode ((aField w).extractLsb' 0 2))
      (txPowerOfCode ((bField w).extractLsb' 0 2)))) ∧
  ∀ (s : State) (power : TxPower), s.cfg.seqPresent = true →
    exec (.setRfParameters none power) s = .refused .reservedOperand ∧
    ∀ rate : DataRate, ∃ (v rateBits code st b : Byte) (sl : Slave),
      rateBits = (match rate with
        | .dr1M => 0#8
        | .dr2M => 1#8 <<< s.cfg.bitRfDrHigh
        | .dr250K => 1#8 <<< s.cfg.bitRfDrLow) ∧
      code = (match power with
        | .pwr0 => s.cfg.pwrMap.pwr0
        | .pwr1 => s.cfg.pwrMap.pwr1
        | .pwr2 => s.cfg.pwrMap.pwr2
        | .pwr3 => s.cfg.pwrMap.pwr3).setWidth 8 ∧
      v = rateBits ||| (code <<< s.cfg.rfPwrLo) ∧
      exec (.setRfParameters (some rate) power) s =
        .next { s.afterFrame (s.cfg.opcWRegister ||| s.cfg.regRfSetup) .send st [(v, b)] sl with
          dataRate := rate, txPower := power, resErr := false }

/-! Transmit and receive (spec/46_transmit_receive.md) -/

/-- R181, POWER_UP_TX: one write of a constant with the power-up bit 1, the primary-receive bit 0 and the CRC bits of CFG_CRC. -/
def Obligations.PowerUpTxWritesTheConfiguration : Prop :=
  (∀ w, hopField w = 0x60#8 → decode w = .ok .powerUpTx) ∧
  ∀ s : State, s.cfg.seqPresent = true →
    (s.cfg.Ok → s.cfg.cfgTx.getLsbD s.cfg.bitPwrUp = true ∧ s.cfg.cfgTx.getLsbD s.cfg.bitPrimRx = false ∧
      s.cfg.cfgTx &&& s.cfg.cfgCrc = s.cfg.cfgCrc) ∧
    ∃ st b sl,
      exec .powerUpTx s =
        .next { s.afterFrame (s.cfg.opcWRegister ||| s.cfg.regConfig) .send st [(s.cfg.cfgTx, b)] sl with
          resErr := false }

/-- R182, TRANSMIT: four frames and three CE events, always, in this order; no result register but RES_ERR. -/
def Obligations.TransmitPulsesTheEnableLine : Prop :=
  (∀ w, hopField w = 0x61#8 → decode w = .ok .transmit) ∧
  ∀ s : State, s.cfg.seqPresent = true →
    (s.initDone = false → exec .transmit s = .refused .notInitialized) ∧
    (s.initDone = true → ∃ (tx : List Byte) (es : List Event) (st : Byte) (sl : Slave) (k : Nat),
      s.sendsBuf s.payloadSize.toNat tx ∧
      driven es = [.ce false] ++ drivenFrames s.cfg s.hadFrame
          [writeFrame s.cfg s.cfg.regConfig s.cfg.cfgTx, writeFrame s.cfg s.cfg.regStatus s.cfg.clrAll,
            (s.cfg.opcFlushTx, []), (s.cfg.opcWTxPayload, tx)] ++
        [.ce true, .wait (.ms s.cfg.tDwellMs), .ce false] ∧
      lastStatus es = some st ∧
      exec .transmit s =
        .next { s with
          ce := false, csn := true, phase := .idle, idx := 0
          cmdb := s.cfg.opcWTxPayload, len := s.payloadSize.toNat, dir := .send
          statusLatch := st, statusValid := true, slave := sl, trace := s.trace ++ es, draws := k, resErr := false })

/-- R183, POWER_UP_RX: three frames, the last with the power-up and the primary-receive bit 1; it ends with CE high. -/
def Obligations.PowerUpRxBeginsListening : Prop :=
  (∀ w, hopField w = 0x62#8 → decode w = .ok .powerUpRx) ∧
  ∀ s : State, s.cfg.seqPresent = true →
    (s.cfg.Ok → s.cfg.cfgRx.getLsbD s.cfg.bitPwrUp = true ∧ s.cfg.cfgRx.getLsbD s.cfg.bitPrimRx = true) ∧
    ∃ (es : List Event) (st : Byte) (sl : Slave),
      driven es = [.ce false] ++ drivenFrames s.cfg s.hadFrame
          [(s.cfg.opcFlushRx, []), writeFrame s.cfg s.cfg.regStatus s.cfg.clrAll,
            writeFrame s.cfg s.cfg.regConfig s.cfg.cfgRx] ++
        [.ce true] ∧
      lastStatus es = some st ∧
      exec .powerUpRx s =
        .next { s with
          ce := true, csn := true, phase := .idle, idx := 0
          cmdb := s.cfg.opcWRegister ||| s.cfg.regConfig, len := 1, dir := .send
          statusLatch := st, statusValid := true, slave := sl, trace := s.trace ++ es, resErr := false }

/-- R184, GET_PAYLOAD: the payload frame, then the clear of the data-ready bit alone; STATUS_LATCH is the clearing write's. -/
def Obligations.GetPayloadClearsDataReady : Prop :=
  (∀ w, hopField w = 0x63#8 → decode w = .ok .getPayload) ∧
  ∀ s : State, s.cfg.seqPresent = true →
    (s.initDone = false → exec .getPayload s = .refused .notInitialized) ∧
    (s.cfg.Ok → ∀ j, j < 8 → s.cfg.clrRxDr.getLsbD j = decide (j = s.cfg.bitRxDr)) ∧
    (s.initDone = true → ∃ tx st rx sl st₂ b sl₂ k m,
      s.sendsBuf s.payloadSize.toNat tx ∧ rx.length = s.payloadSize.toNat ∧ s.receives rx m ∧
      exec .getPayload s =
        .next { (s.afterFrame s.cfg.opcRRxPayload .duplex st (tx.zip rx) sl).afterFrame
            (s.cfg.opcWRegister ||| s.cfg.regStatus) .send st₂ [(s.cfg.clrRxDr, b)] sl₂ with
          draws := k, buf := m, resErr := false })

/-- R185, POWER_DOWN: CE low, then the power-up bit of REG_CONFIG cleared and its other bits written back as read. RES_DATA
holds the byte written back, as WRITE_BIT leaves it (R136, R170): a reading of the spec (log entry 17). That the read frame
leaves BUF unchanged is the model's reading of R26 beside R136 and R185 (log entry 31). -/
def Obligations.PowerDownClearsThePowerBit : Prop :=
  (∀ w, hopField w = 0x64#8 → decode w = .ok .powerDown) ∧
  ∀ s : State, s.cfg.seqPresent = true →
    ∃ (st₁ old : Byte) (sl₁ : Slave) (st₂ new b : Byte) (sl₂ : Slave),
    (∀ j, j < 8 → new.getLsbD j = if j = s.cfg.bitPwrUp then false else old.getLsbD j) ∧
    exec .powerDown s =
      .next { (({ s with ce := false, trace := s.trace ++ [.ce false] } : State).afterFrame
            (s.cfg.opcRRegister ||| s.cfg.regConfig) .recv st₁ [(s.cfg.dummyByte, old)] sl₁).afterFrame
          (s.cfg.opcWRegister ||| s.cfg.regConfig) .send st₂ [(new, b)] sl₂ with
        resData := new, resErr := false }

/-- R104: a controller without the sequence layer refuses the nine pseudo-instructions and the two payload commands. One with
it does for a payload command exactly what TRANSACT does with that command byte and PAYLOAD_SIZE: two runs from one
state are compared, and both meet the same oracle, so they get the same MISO bytes (log entry 6) and the same unwritten bytes of
BUF (log entry 8). That the refusal is IllegalCommand, and comes before the command's other checks, is a reading of R104 (log
entry 20). -/
def Obligations.PayloadCommandsAreTransactions : Prop :=
  (∀ (s : State) (i : Instr), s.cfg.seqPresent = false →
    (0x50#8 ≤ i.hop ∧ i.hop ≤ 0x64#8) ∨ i.hop = 0x20#8 ∨ i.hop = 0x21#8 → exec i s = .refused .illegalCommand) ∧
  ∀ s : State, s.cfg.seqPresent = true → s.initDone = true → s.payloadSize.toNat ≤ s.cfg.bufSize →
    exec .writeTxPayload s = exec (.transact s.cfg.opcWTxPayload (s.payloadSize.setWidth 8) (some .send)) s ∧
    exec .readRxPayload s = exec (.transact s.cfg.opcRRxPayload (s.payloadSize.setWidth 8) (some .duplex)) s

/-! The whole machine -/

/-- R11, R200, R203: a command is refused exactly as R203 lists, for the first reason in its pseudocode's order; otherwise it
completes. It never faults. How a controller without the sequence layer refuses is a reading of R104 (log entry 20). -/
def Obligations.CommandsCompleteUnlessRefused : Prop :=
  ∀ (s : State) (i : Instr),
    (∀ r, refusalOf s i = some r → exec i s = .refused r) ∧
    (refusalOf s i = none → ∃ t, exec i s = .next t) ∧
    (refusalOf s i = none ↔ s.ready i)

/-- R26: a command leaves every byte of BUF it does not store to as it was; every byte it stores to is written from then on. That
a one-byte register read stores nothing to BUF is a reading of R26 beside the commands' own rules (log entry 31). -/
def Obligations.BufIsKeptOutsideStores : Prop :=
  ∀ (s t : State) (i : Instr), exec i s = .next t → ∀ j,
    (¬storesTo s i j → t.buf.read j = s.buf.read j) ∧ (storesTo s i j → ∃ b, t.buf.read j = some b)

/-- R20, R31 to R36: who writes DeviceState and INIT_DONE. -/
def Obligations.DeviceStateHasItsWriters : Prop :=
  ∀ (s t : State) (i : Instr), exec i s = .next t →
    ((∀ ch p, i ≠ .initController ch p) →
      t.payloadSize = s.payloadSize ∧ t.initDone = s.initDone ∧
      ((∀ ch, i ≠ .setChannel ch) → t.channelCache = s.channelCache)) ∧
    ((∀ rate power, i ≠ .setRfParameters rate power) → t.dataRate = s.dataRate ∧ t.txPower = s.txPower) ∧
    (s.initDone = true → t.initDone = true)

/-- R20, R28, R30, R201: who writes the result registers and STATUS_LATCH; RES_ERR = 1 comes from SET_CHANNEL and
INITIALIZE only. POWER_DOWN writes RES_DATA through WRITE_BIT (R170, R185; log entry 17). -/
def Obligations.ResultRegistersHaveTheirWriters : Prop :=
  ∀ (s t : State) (i : Instr), exec i s = .next t →
    (t.resData ≠ s.resData → i.hop ∈ [0x02#8, 0x10#8, 0x14#8, 0x15#8, 0x30#8, 0x32#8, 0x43#8, 0x64#8]) ∧
    (t.resFlag ≠ s.resFlag → i.hop ∈ [0x14#8, 0x31#8]) ∧
    (t.resCode ≠ s.resCode → i.hop = 0x30#8) ∧
    (t.resErr = true → i.hop ∈ [0x50#8, 0x51#8]) ∧
    (i.hop ∈ [0x40#8, 0x41#8, 0x42#8, 0x43#8] → t.statusLatch = s.statusLatch ∧ t.statusValid = s.statusValid) ∧
    (i.hop ∉ [0x40#8, 0x41#8, 0x42#8, 0x43#8] → t.statusValid = true)

/-- R21, R22, R64: a command only adds events; it leaves CSN high if it found it high; CE changes by CE_SET and the four
sequences that use it alone; and the parameters and the host's later inputs are not touched. -/
def Obligations.LinesHaveTheirWriters : Prop :=
  ∀ (s t : State) (i : Instr), exec i s = .next t →
    (∃ es, t.trace = s.trace ++ es) ∧
    (s.csn = true → t.csn = true) ∧
    (t.ce ≠ s.ce → i.hop ∈ [0x40#8, 0x50#8, 0x61#8, 0x62#8, 0x64#8]) ∧
    t.cfg = s.cfg ∧ t.inputs = s.inputs ∧ t.busy = s.busy

/-! Reset (spec/10_state.md R40, spec/70_reset_and_hazards.md) -/

/-- R40: the values the spec gives at reset. For RES_ERR and IDX the model follows R40 where U4 differs (log entry 29). The default
parameters of `State.reset`: log entry 1. -/
def Obligations.ResetHasTheGivenValues : Prop :=
  ∀ c : Config,
    (State.resetWith c).csn = true ∧ (State.resetWith c).ce = false ∧ (State.resetWith c).phase = .idle ∧
    (State.resetWith c).idx = 0 ∧ (∀ j, (State.resetWith c).buf.read j = none) ∧
    (State.resetWith c).statusValid = false ∧ (State.resetWith c).resErr = false ∧
    (State.resetWith c).channelCache = c.chSentinel ∧ (State.resetWith c).dataRate = c.initDataRate ∧
    (State.resetWith c).txPower = c.initTxPower ∧ (State.resetWith c).initDone = false ∧
    (State.resetWith c).busy = false ∧ State.reset = State.resetWith Config.default

/-- R230: `rst` in any state puts every element at the value R40 gives it (RES_ERR and IDX: log entry 29). Between commands it does
not reach the slave (R231); where it cuts a command off, the slave is unknown from then on (R232; the model's form of an unknown
slave: log entry 13). -/
def Obligations.RstResetsTheController : Prop :=
  ∀ (s : State) (rest : List Input), s.inputs = .rst :: rest →
    ∃ t, step s = .next t ∧
      t.csn = true ∧ t.ce = false ∧ t.phase = .idle ∧ t.idx = 0 ∧ (∀ j, t.buf.read j = none) ∧
      t.statusValid = false ∧ t.resErr = false ∧ t.channelCache = s.cfg.chSentinel ∧
      t.dataRate = s.cfg.initDataRate ∧ t.txPower = s.cfg.initTxPower ∧ t.initDone = false ∧ t.busy = false ∧
      t.cfg = s.cfg ∧ t.inputs = rest ∧
      (s.busy = false → t.slave = s.slave) ∧ (s.busy = true → ∃ id, t.slave = .oracle id [])

/-- R232: `rst` after the first `k` events of a command. No later event of the command happens; CSN goes to 1 if a
transaction was open, CE to 0 if it was 1; the controller is reset, the registers that R40 leaves unspecified left open (RES_ERR
and IDX: log entry 29); the slave is unknown from then on. An `rst` with a place inside a command, the unknown slave after it and
the list of events that goes on are the model's choice (log entries 13 and 24). The run that is cut is held beside the run that
is not, and both meet the same oracle (log entries 6 and 8). -/
def Obligations.RstDuringACommandTruncatesIt : Prop :=
  ∀ (s t : State) (w : CommandWord) (k : Nat) (rest : List Input),
    s.busy = false → s.csn = true → s.inputs = .commandThenRst w k :: rest →
    step { s with inputs := .command w :: rest } = .next t →
    ∃ es u p slave, t.trace = s.trace ++ es ∧ replay (es.take k) (true, s.ce) = some p ∧
      step s = .next u ∧
      u = { State.resetWith s.cfg with
        cmdb := u.cmdb, len := u.len, dir := u.dir, statusLatch := u.statusLatch, resData := u.resData
        resFlag := u.resFlag, resCode := u.resCode, payloadSize := u.payloadSize
        slave := .oracle slave [], inputs := rest, draws := u.draws
        trace := s.trace ++ es.take k ++ (if p.1 then [] else [.csn true]) ++ (if p.2 then [.ce false] else []) }

/-! Invariants -/

/-- The invariant of R41 (with the parameters' requirements of R5, collected in log entry 15, BUF's form of R26, and RES_CODE
of R30) holds at reset. The parameters meet their requirements by the defaults of log entry 1;
RES_CODE, which R40 leaves unspecified, is not 3 there by log entry 3. -/
def Obligations.ResetMeetsTheInvariant : Prop := State.reset.Inv

/-- Every step, whatever the input, keeps the invariant: R41, BUF inside BUF_SIZE and in its canonical form (R26), RES_CODE never 3
(R30), and the parameters' requirements (R5, collected in log entry 15), since no step changes a parameter.
After `rst` RES_CODE, which R40 leaves unspecified, is not 3 by log entry 3; after a command it is not 3 by R30. -/
def Obligations.StepKeepsTheInvariant : Prop := ∀ s t : State, s.Inv → step s = .next t → t.Inv

/-- The pins' invariant holds at reset. -/
def Obligations.ResetMeetsTheBusInvariant : Prop := State.reset.BusInv

/-- Every step keeps the pins' invariant: no input ever makes the controller exchange a byte outside a frame or drive
chip-select twice to one level (R21, R120), the event list always leads to the pins' levels (R22), and STATUS_LATCH is the status
byte of the most recent transaction (R28). For `rst` the events are the model's (log entries 12, 13 and 24). -/
def Obligations.StepKeepsTheBusInvariant : Prop := ∀ s t : State, s.BusInv → step s = .next t → t.BusInv

/-! With the reference slave (spec/20_memory.md R80 to R82) at the other end -/

/-- R73, R81: a write of `v` to REG_STATUS clears the latched bits where `v` has a 1, and nothing else of the slave. The
reference slave: log entry 21. -/
def Obligations.StatusWriteClearsOnes : Prop :=
  ∀ (s : State) (r : RefSlave) (v : Byte), s.cfg.Ok → s.slave = .reference r →
    ∃ t r', exec (.writeReg s.cfg.regStatus v) s = .next t ∧ t.slave = .reference r' ∧ t.statusLatch = r.st ∧
      (∀ j, j < 8 → r'.st.getLsbD j =
        (r.st.getLsbD j && !(v.getLsbD j && decide (j ∈ [s.cfg.bitRxDr, s.cfg.bitTxDs, s.cfg.bitMaxRt])))) ∧
      r'.regs = r.regs ∧ r'.txf = r.txf ∧ r'.rxf = r.rxf

/-- R71, R72, R173, §8's round trip: the bytes SET_ADDRESS wrote are the bytes a read of the same register returns; after a
peer address both address registers hold them. The reference slave: log entry 21. -/
def Obligations.AddressReadsBack : Prop :=
  ∀ (s : State) (r : RefSlave) (own : Bool), s.cfg.Ok → s.cfg.seqPresent = true → s.slave = .reference r →
    r.Shaped s.cfg → (∀ j, j < s.cfg.addrLen → ∃ b, s.buf.read j = some b) →
    ∃ t, exec (.setAddress own) s = .next t ∧
      (∃ u, exec (.readRegMulti s.cfg.regRxAddrP0 (BitVec.ofNat 8 s.cfg.addrLen)) t = .next u ∧
        ∀ j, u.buf.read j = s.buf.read j) ∧
      (own = false → ∃ u, exec (.readRegMulti s.cfg.regTxAddr (BitVec.ofNat 8 s.cfg.addrLen)) t = .next u ∧
        ∀ j, u.buf.read j = s.buf.read j)

/-- R71, R72, R250: after INITIALIZE every pipe-width register reads back the clamped payload size. The reference slave: log
entry 21. -/
def Obligations.PipeWidthsReadBack : Prop :=
  ∀ (s : State) (r : RefSlave) (channel payloadSize : Byte), s.cfg.Ok → s.cfg.seqPresent = true →
    s.slave = .reference r → r.Shaped s.cfg → payloadSize ≠ 0#8 →
    ∃ t, exec (.initController channel payloadSize) s = .next t ∧
      ∀ a ∈ s.cfg.regRxPw, ∃ u, exec (.readReg a) t = .next u ∧
        u.resData.toNat = min payloadSize.toNat s.cfg.maxPayload.toNat

/-- R74, R75, R81: what the payload and flush commands do to the slave's FIFOs, and how the RX FIFO shows in REG_FIFO_STATUS. The
payload queued is the MOSI bytes of the frame. The flush commands and READ_REG need no INITIALIZE. The reference slave: log entry
21. -/
def Obligations.PayloadCommandsMoveTheFifos : Prop :=
  ∀ (s : State) (r : RefSlave), s.cfg.Ok → s.slave = .reference r →
    (s.cfg.seqPresent = true → s.initDone = true →
      (∃ t r' tx, exec .writeTxPayload s = .next t ∧ t.slave = .reference r' ∧ s.sendsBuf s.payloadSize.toNat tx ∧
        t.trace = s.trace ++ frameEvents s.cfg s.hadFrame s.cfg.opcWTxPayload r.st (tx.map fun b => (b, 0#8)) ∧
        r'.txf = r.txf ++ [tx] ∧ r'.rxf = r.rxf ∧ r'.regs = r.regs ∧ r'.st = r.st) ∧
      (∃ t r', exec .readRxPayload s = .next t ∧ t.slave = .reference r' ∧
        (∀ j, j < s.payloadSize.toNat → t.buf.read j = some ((r.rxf.headD []).getD j 0#8)) ∧
        r'.rxf = r.rxf.tail ∧ r'.txf = r.txf ∧ r'.regs = r.regs ∧ r'.st = r.st)) ∧
    (∃ t r', exec .flushTx s = .next t ∧ t.slave = .reference r' ∧
      r'.txf = [] ∧ r'.rxf = r.rxf ∧ r'.regs = r.regs ∧ r'.st = r.st) ∧
    (∃ t r', exec .flushRx s = .next t ∧ t.slave = .reference r' ∧
      r'.rxf = [] ∧ r'.txf = r.txf ∧ r'.regs = r.regs ∧ r'.st = r.st) ∧
    (∃ t, exec (.readReg s.cfg.regFifoStatus) s = .next t ∧ t.slave = .reference { r with frame := [] } ∧
      (t.resData.getLsbD s.cfg.bitRxEmpty = true ↔ r.rxf = []))

/-- R77, R215: the posture each sequence of R215 leaves the slave in, by REG_CONFIG and CE. Transmit-ready is standby with the
power-up bit 1 and the primary-receive bit 0. The reference slave and `posture` are the model's readings (log entries 21 and
22). -/
def Obligations.SequencesReachTheirPostures : Prop :=
  ∀ (s : State) (r : RefSlave), s.cfg.Ok → s.cfg.seqPresent = true → s.slave = .reference r → r.Shaped s.cfg →
    (∃ t r', exec .powerUpRx s = .next t ∧ t.slave = .reference r' ∧
      posture s.cfg (r'.regByte s.cfg s.cfg.regConfig 0) t.ce = .listening) ∧
    (s.ce = false → ∃ t r', exec .powerUpTx s = .next t ∧ t.slave = .reference r' ∧
      posture s.cfg (r'.regByte s.cfg s.cfg.regConfig 0) t.ce = .standby ∧
      (r'.regByte s.cfg s.cfg.regConfig 0).getLsbD s.cfg.bitPwrUp = true ∧
      (r'.regByte s.cfg s.cfg.regConfig 0).getLsbD s.cfg.bitPrimRx = false) ∧
    (s.initDone = true → ∃ t r', exec .transmit s = .next t ∧ t.slave = .reference r' ∧
      posture s.cfg (r'.regByte s.cfg s.cfg.regConfig 0) t.ce = .standby ∧
      (r'.regByte s.cfg s.cfg.regConfig 0).getLsbD s.cfg.bitPwrUp = true ∧
      (r'.regByte s.cfg s.cfg.regConfig 0).getLsbD s.cfg.bitPrimRx = false) ∧
    (∀ channel payloadSize : Byte, payloadSize ≠ 0#8 →
      ∃ t r', exec (.initController channel payloadSize) s = .next t ∧ t.slave = .reference r' ∧
        posture s.cfg (r'.regByte s.cfg s.cfg.regConfig 0) t.ce = .standby ∧
        (r'.regByte s.cfg s.cfg.regConfig 0).getLsbD s.cfg.bitPwrUp = true ∧
        (r'.regByte s.cfg s.cfg.regConfig 0).getLsbD s.cfg.bitPrimRx = false) ∧
    (∃ t r', exec .powerDown s = .next t ∧ t.slave = .reference r' ∧
      posture s.cfg (r'.regByte s.cfg s.cfg.regConfig 0) t.ce = .powerDown)

/-- §8's property, R74, R154: IS_DATA_READY is true exactly when the data-ready bit is set or the RX FIFO holds a payload.
The reference slave: log entry 21. -/
def Obligations.IsDataReadySeesAQueuedPayload : Prop :=
  ∀ (s : State) (r : RefSlave), s.cfg.Ok → s.slave = .reference r →
    ∃ t, exec .isDataReady s = .next t ∧
      (t.resFlag = true ↔ r.st.getLsbD s.cfg.bitRxDr = true ∨ r.rxf ≠ [])
end

