-- ==== Sys2Proof/Laws/State.lean ====
section
/-! SUPPORT. One lemma per field of State and per named update, so that no proof unfolds an update (Machine/Ops.lean, Safety.lean). -/

namespace Sys2Proof.Machine

variable (e : Event) (l : Bool) (bs : List Byte) (s : State) (c st : Byte) (d : Dir) (io : List (Byte × Byte)) (sl : Slave)

@[simp] theorem emit_csn : (emit e s).csn = s.csn := rfl
@[simp] theorem emit_ce : (emit e s).ce = s.ce := rfl
@[simp] theorem emit_phase : (emit e s).phase = s.phase := rfl
@[simp] theorem emit_idx : (emit e s).idx = s.idx := rfl
@[simp] theorem emit_cmdb : (emit e s).cmdb = s.cmdb := rfl
@[simp] theorem emit_len : (emit e s).len = s.len := rfl
@[simp] theorem emit_dir : (emit e s).dir = s.dir := rfl
@[simp] theorem emit_buf : (emit e s).buf = s.buf := rfl
@[simp] theorem emit_statusLatch : (emit e s).statusLatch = s.statusLatch := rfl
@[simp] theorem emit_statusValid : (emit e s).statusValid = s.statusValid := rfl
@[simp] theorem emit_resData : (emit e s).resData = s.resData := rfl
@[simp] theorem emit_resFlag : (emit e s).resFlag = s.resFlag := rfl
@[simp] theorem emit_resCode : (emit e s).resCode = s.resCode := rfl
@[simp] theorem emit_resErr : (emit e s).resErr = s.resErr := rfl
@[simp] theorem emit_payloadSize : (emit e s).payloadSize = s.payloadSize := rfl
@[simp] theorem emit_channelCache : (emit e s).channelCache = s.channelCache := rfl
@[simp] theorem emit_dataRate : (emit e s).dataRate = s.dataRate := rfl
@[simp] theorem emit_txPower : (emit e s).txPower = s.txPower := rfl
@[simp] theorem emit_initDone : (emit e s).initDone = s.initDone := rfl
@[simp] theorem emit_busy : (emit e s).busy = s.busy := rfl
@[simp] theorem emit_cfg : (emit e s).cfg = s.cfg := rfl
@[simp] theorem emit_slave : (emit e s).slave = s.slave := rfl
@[simp] theorem emit_inputs : (emit e s).inputs = s.inputs := rfl
@[simp] theorem emit_trace : (emit e s).trace = s.trace ++ [e] := rfl
@[simp] theorem emit_draws : (emit e s).draws = s.draws := rfl

@[simp] theorem setCsn_csn : (setCsn l s).csn = l := rfl
@[simp] theorem setCsn_ce : (setCsn l s).ce = s.ce := rfl
@[simp] theorem setCsn_phase : (setCsn l s).phase = s.phase := rfl
@[simp] theorem setCsn_idx : (setCsn l s).idx = s.idx := rfl
@[simp] theorem setCsn_cmdb : (setCsn l s).cmdb = s.cmdb := rfl
@[simp] theorem setCsn_len : (setCsn l s).len = s.len := rfl
@[simp] theorem setCsn_dir : (setCsn l s).dir = s.dir := rfl
@[simp] theorem setCsn_buf : (setCsn l s).buf = s.buf := rfl
@[simp] theorem setCsn_statusLatch : (setCsn l s).statusLatch = s.statusLatch := rfl
@[simp] theorem setCsn_statusValid : (setCsn l s).statusValid = s.statusValid := rfl
@[simp] theorem setCsn_resData : (setCsn l s).resData = s.resData := rfl
@[simp] theorem setCsn_resFlag : (setCsn l s).resFlag = s.resFlag := rfl
@[simp] theorem setCsn_resCode : (setCsn l s).resCode = s.resCode := rfl
@[simp] theorem setCsn_resErr : (setCsn l s).resErr = s.resErr := rfl
@[simp] theorem setCsn_payloadSize : (setCsn l s).payloadSize = s.payloadSize := rfl
@[simp] theorem setCsn_channelCache : (setCsn l s).channelCache = s.channelCache := rfl
@[simp] theorem setCsn_dataRate : (setCsn l s).dataRate = s.dataRate := rfl
@[simp] theorem setCsn_txPower : (setCsn l s).txPower = s.txPower := rfl
@[simp] theorem setCsn_initDone : (setCsn l s).initDone = s.initDone := rfl
@[simp] theorem setCsn_busy : (setCsn l s).busy = s.busy := rfl
@[simp] theorem setCsn_cfg : (setCsn l s).cfg = s.cfg := rfl
@[simp] theorem setCsn_slave : (setCsn l s).slave = s.slave.onCsn s.cfg l := rfl
@[simp] theorem setCsn_inputs : (setCsn l s).inputs = s.inputs := rfl
@[simp] theorem setCsn_trace : (setCsn l s).trace = s.trace ++ [.csn l] := rfl
@[simp] theorem setCsn_draws : (setCsn l s).draws = s.draws := rfl

@[simp] theorem setCe_csn : (setCe l s).csn = s.csn := rfl
@[simp] theorem setCe_ce : (setCe l s).ce = l := rfl
@[simp] theorem setCe_phase : (setCe l s).phase = s.phase := rfl
@[simp] theorem setCe_idx : (setCe l s).idx = s.idx := rfl
@[simp] theorem setCe_cmdb : (setCe l s).cmdb = s.cmdb := rfl
@[simp] theorem setCe_len : (setCe l s).len = s.len := rfl
@[simp] theorem setCe_dir : (setCe l s).dir = s.dir := rfl
@[simp] theorem setCe_buf : (setCe l s).buf = s.buf := rfl
@[simp] theorem setCe_statusLatch : (setCe l s).statusLatch = s.statusLatch := rfl
@[simp] theorem setCe_statusValid : (setCe l s).statusValid = s.statusValid := rfl
@[simp] theorem setCe_resData : (setCe l s).resData = s.resData := rfl
@[simp] theorem setCe_resFlag : (setCe l s).resFlag = s.resFlag := rfl
@[simp] theorem setCe_resCode : (setCe l s).resCode = s.resCode := rfl
@[simp] theorem setCe_resErr : (setCe l s).resErr = s.resErr := rfl
@[simp] theorem setCe_payloadSize : (setCe l s).payloadSize = s.payloadSize := rfl
@[simp] theorem setCe_channelCache : (setCe l s).channelCache = s.channelCache := rfl
@[simp] theorem setCe_dataRate : (setCe l s).dataRate = s.dataRate := rfl
@[simp] theorem setCe_txPower : (setCe l s).txPower = s.txPower := rfl
@[simp] theorem setCe_initDone : (setCe l s).initDone = s.initDone := rfl
@[simp] theorem setCe_busy : (setCe l s).busy = s.busy := rfl
@[simp] theorem setCe_cfg : (setCe l s).cfg = s.cfg := rfl
@[simp] theorem setCe_slave : (setCe l s).slave = s.slave := rfl
@[simp] theorem setCe_inputs : (setCe l s).inputs = s.inputs := rfl
@[simp] theorem setCe_trace : (setCe l s).trace = s.trace ++ [.ce l] := rfl
@[simp] theorem setCe_draws : (setCe l s).draws = s.draws := rfl

@[simp] theorem reportOk_csn : (reportOk s).csn = s.csn := rfl
@[simp] theorem reportOk_ce : (reportOk s).ce = s.ce := rfl
@[simp] theorem reportOk_phase : (reportOk s).phase = s.phase := rfl
@[simp] theorem reportOk_idx : (reportOk s).idx = s.idx := rfl
@[simp] theorem reportOk_cmdb : (reportOk s).cmdb = s.cmdb := rfl
@[simp] theorem reportOk_len : (reportOk s).len = s.len := rfl
@[simp] theorem reportOk_dir : (reportOk s).dir = s.dir := rfl
@[simp] theorem reportOk_buf : (reportOk s).buf = s.buf := rfl
@[simp] theorem reportOk_statusLatch : (reportOk s).statusLatch = s.statusLatch := rfl
@[simp] theorem reportOk_statusValid : (reportOk s).statusValid = s.statusValid := rfl
@[simp] theorem reportOk_resData : (reportOk s).resData = s.resData := rfl
@[simp] theorem reportOk_resFlag : (reportOk s).resFlag = s.resFlag := rfl
@[simp] theorem reportOk_resCode : (reportOk s).resCode = s.resCode := rfl
@[simp] theorem reportOk_resErr : (reportOk s).resErr = false := rfl
@[simp] theorem reportOk_payloadSize : (reportOk s).payloadSize = s.payloadSize := rfl
@[simp] theorem reportOk_channelCache : (reportOk s).channelCache = s.channelCache := rfl
@[simp] theorem reportOk_dataRate : (reportOk s).dataRate = s.dataRate := rfl
@[simp] theorem reportOk_txPower : (reportOk s).txPower = s.txPower := rfl
@[simp] theorem reportOk_initDone : (reportOk s).initDone = s.initDone := rfl
@[simp] theorem reportOk_busy : (reportOk s).busy = s.busy := rfl
@[simp] theorem reportOk_cfg : (reportOk s).cfg = s.cfg := rfl
@[simp] theorem reportOk_slave : (reportOk s).slave = s.slave := rfl
@[simp] theorem reportOk_inputs : (reportOk s).inputs = s.inputs := rfl
@[simp] theorem reportOk_trace : (reportOk s).trace = s.trace := rfl
@[simp] theorem reportOk_draws : (reportOk s).draws = s.draws := rfl

@[simp] theorem storeBuf_csn : (storeBuf bs s).csn = s.csn := rfl
@[simp] theorem storeBuf_ce : (storeBuf bs s).ce = s.ce := rfl
@[simp] theorem storeBuf_phase : (storeBuf bs s).phase = s.phase := rfl
@[simp] theorem storeBuf_idx : (storeBuf bs s).idx = s.idx := rfl
@[simp] theorem storeBuf_cmdb : (storeBuf bs s).cmdb = s.cmdb := rfl
@[simp] theorem storeBuf_len : (storeBuf bs s).len = s.len := rfl
@[simp] theorem storeBuf_dir : (storeBuf bs s).dir = s.dir := rfl
@[simp] theorem storeBuf_buf : (storeBuf bs s).buf = s.buf.writeFrom 0 bs := rfl
@[simp] theorem storeBuf_statusLatch : (storeBuf bs s).statusLatch = s.statusLatch := rfl
@[simp] theorem storeBuf_statusValid : (storeBuf bs s).statusValid = s.statusValid := rfl
@[simp] theorem storeBuf_resData : (storeBuf bs s).resData = s.resData := rfl
@[simp] theorem storeBuf_resFlag : (storeBuf bs s).resFlag = s.resFlag := rfl
@[simp] theorem storeBuf_resCode : (storeBuf bs s).resCode = s.resCode := rfl
@[simp] theorem storeBuf_resErr : (storeBuf bs s).resErr = s.resErr := rfl
@[simp] theorem storeBuf_payloadSize : (storeBuf bs s).payloadSize = s.payloadSize := rfl
@[simp] theorem storeBuf_channelCache : (storeBuf bs s).channelCache = s.channelCache := rfl
@[simp] theorem storeBuf_dataRate : (storeBuf bs s).dataRate = s.dataRate := rfl
@[simp] theorem storeBuf_txPower : (storeBuf bs s).txPower = s.txPower := rfl
@[simp] theorem storeBuf_initDone : (storeBuf bs s).initDone = s.initDone := rfl
@[simp] theorem storeBuf_busy : (storeBuf bs s).busy = s.busy := rfl
@[simp] theorem storeBuf_cfg : (storeBuf bs s).cfg = s.cfg := rfl
@[simp] theorem storeBuf_slave : (storeBuf bs s).slave = s.slave := rfl
@[simp] theorem storeBuf_inputs : (storeBuf bs s).inputs = s.inputs := rfl
@[simp] theorem storeBuf_trace : (storeBuf bs s).trace = s.trace := rfl
@[simp] theorem storeBuf_draws : (storeBuf bs s).draws = s.draws := rfl

@[simp] theorem accept_csn : (accept s).csn = s.csn := rfl
@[simp] theorem accept_ce : (accept s).ce = s.ce := rfl
@[simp] theorem accept_phase : (accept s).phase = s.phase := rfl
@[simp] theorem accept_idx : (accept s).idx = s.idx := rfl
@[simp] theorem accept_cmdb : (accept s).cmdb = s.cmdb := rfl
@[simp] theorem accept_len : (accept s).len = s.len := rfl
@[simp] theorem accept_dir : (accept s).dir = s.dir := rfl
@[simp] theorem accept_buf : (accept s).buf = s.buf := rfl
@[simp] theorem accept_statusLatch : (accept s).statusLatch = s.statusLatch := rfl
@[simp] theorem accept_statusValid : (accept s).statusValid = s.statusValid := rfl
@[simp] theorem accept_resData : (accept s).resData = s.resData := rfl
@[simp] theorem accept_resFlag : (accept s).resFlag = s.resFlag := rfl
@[simp] theorem accept_resCode : (accept s).resCode = s.resCode := rfl
@[simp] theorem accept_resErr : (accept s).resErr = s.resErr := rfl
@[simp] theorem accept_payloadSize : (accept s).payloadSize = s.payloadSize := rfl
@[simp] theorem accept_channelCache : (accept s).channelCache = s.channelCache := rfl
@[simp] theorem accept_dataRate : (accept s).dataRate = s.dataRate := rfl
@[simp] theorem accept_txPower : (accept s).txPower = s.txPower := rfl
@[simp] theorem accept_initDone : (accept s).initDone = s.initDone := rfl
@[simp] theorem accept_busy : (accept s).busy = true := rfl
@[simp] theorem accept_cfg : (accept s).cfg = s.cfg := rfl
@[simp] theorem accept_slave : (accept s).slave = s.slave := rfl
@[simp] theorem accept_inputs : (accept s).inputs = s.inputs.tail := rfl
@[simp] theorem accept_trace : (accept s).trace = s.trace := rfl
@[simp] theorem accept_draws : (accept s).draws = s.draws := rfl

@[simp] theorem dropInput_csn : (dropInput s).csn = s.csn := rfl
@[simp] theorem dropInput_ce : (dropInput s).ce = s.ce := rfl
@[simp] theorem dropInput_phase : (dropInput s).phase = s.phase := rfl
@[simp] theorem dropInput_idx : (dropInput s).idx = s.idx := rfl
@[simp] theorem dropInput_cmdb : (dropInput s).cmdb = s.cmdb := rfl
@[simp] theorem dropInput_len : (dropInput s).len = s.len := rfl
@[simp] theorem dropInput_dir : (dropInput s).dir = s.dir := rfl
@[simp] theorem dropInput_buf : (dropInput s).buf = s.buf := rfl
@[simp] theorem dropInput_statusLatch : (dropInput s).statusLatch = s.statusLatch := rfl
@[simp] theorem dropInput_statusValid : (dropInput s).statusValid = s.statusValid := rfl
@[simp] theorem dropInput_resData : (dropInput s).resData = s.resData := rfl
@[simp] theorem dropInput_resFlag : (dropInput s).resFlag = s.resFlag := rfl
@[simp] theorem dropInput_resCode : (dropInput s).resCode = s.resCode := rfl
@[simp] theorem dropInput_resErr : (dropInput s).resErr = s.resErr := rfl
@[simp] theorem dropInput_payloadSize : (dropInput s).payloadSize = s.payloadSize := rfl
@[simp] theorem dropInput_channelCache : (dropInput s).channelCache = s.channelCache := rfl
@[simp] theorem dropInput_dataRate : (dropInput s).dataRate = s.dataRate := rfl
@[simp] theorem dropInput_txPower : (dropInput s).txPower = s.txPower := rfl
@[simp] theorem dropInput_initDone : (dropInput s).initDone = s.initDone := rfl
@[simp] theorem dropInput_busy : (dropInput s).busy = s.busy := rfl
@[simp] theorem dropInput_cfg : (dropInput s).cfg = s.cfg := rfl
@[simp] theorem dropInput_slave : (dropInput s).slave = s.slave := rfl
@[simp] theorem dropInput_inputs : (dropInput s).inputs = s.inputs.tail := rfl
@[simp] theorem dropInput_trace : (dropInput s).trace = s.trace := rfl
@[simp] theorem dropInput_draws : (dropInput s).draws = s.draws := rfl

@[simp] theorem afterFrame_csn : (s.afterFrame c d st io sl).csn = true := rfl
@[simp] theorem afterFrame_ce : (s.afterFrame c d st io sl).ce = s.ce := rfl
@[simp] theorem afterFrame_phase : (s.afterFrame c d st io sl).phase = .idle := rfl
@[simp] theorem afterFrame_idx : (s.afterFrame c d st io sl).idx = 0 := rfl
@[simp] theorem afterFrame_cmdb : (s.afterFrame c d st io sl).cmdb = c := rfl
@[simp] theorem afterFrame_len : (s.afterFrame c d st io sl).len = io.length := rfl
@[simp] theorem afterFrame_dir : (s.afterFrame c d st io sl).dir = d := rfl
@[simp] theorem afterFrame_buf : (s.afterFrame c d st io sl).buf = s.buf := rfl
@[simp] theorem afterFrame_statusLatch : (s.afterFrame c d st io sl).statusLatch = st := rfl
@[simp] theorem afterFrame_statusValid : (s.afterFrame c d st io sl).statusValid = true := rfl
@[simp] theorem afterFrame_resData : (s.afterFrame c d st io sl).resData = s.resData := rfl
@[simp] theorem afterFrame_resFlag : (s.afterFrame c d st io sl).resFlag = s.resFlag := rfl
@[simp] theorem afterFrame_resCode : (s.afterFrame c d st io sl).resCode = s.resCode := rfl
@[simp] theorem afterFrame_resErr : (s.afterFrame c d st io sl).resErr = s.resErr := rfl
@[simp] theorem afterFrame_payloadSize : (s.afterFrame c d st io sl).payloadSize = s.payloadSize := rfl
@[simp] theorem afterFrame_channelCache : (s.afterFrame c d st io sl).channelCache = s.channelCache := rfl
@[simp] theorem afterFrame_dataRate : (s.afterFrame c d st io sl).dataRate = s.dataRate := rfl
@[simp] theorem afterFrame_txPower : (s.afterFrame c d st io sl).txPower = s.txPower := rfl
@[simp] theorem afterFrame_initDone : (s.afterFrame c d st io sl).initDone = s.initDone := rfl
@[simp] theorem afterFrame_busy : (s.afterFrame c d st io sl).busy = s.busy := rfl
@[simp] theorem afterFrame_cfg : (s.afterFrame c d st io sl).cfg = s.cfg := rfl
@[simp] theorem afterFrame_slave : (s.afterFrame c d st io sl).slave = sl := rfl
@[simp] theorem afterFrame_inputs : (s.afterFrame c d st io sl).inputs = s.inputs := rfl
@[simp] theorem afterFrame_trace : (s.afterFrame c d st io sl).trace = s.trace ++ frameEvents s.cfg s.hadFrame c st io := rfl
@[simp] theorem afterFrame_draws : (s.afterFrame c d st io sl).draws = s.draws := rfl

end Sys2Proof.Machine
end

