-- ==== Sys2Proof/Laws/Memory.lean ====
section
/-! SUPPORT. The data buffer: a read after a write, and the canonical form kept by every operation (spec/10_state.md R26). -/

namespace Sys2Proof.Machine

theorem Memory.read_write_same (m : Memory) (i : Nat) (b : Byte) : (m.write i b).read i = some b := by
  induction m with
  | nil => simp [Memory.write, Memory.read]
  | cons cell rest ih =>
    obtain ⟨j, x⟩ := cell
    unfold Memory.write
    split
    · simp [Memory.read]
    · split
      · simp [Memory.read]
      · simp [Memory.read, *]

theorem Memory.read_write_other (m : Memory) {i j : Nat} (b : Byte) (h : j ≠ i) :
    (m.write i b).read j = m.read j := by
  induction m with
  | nil => simp [Memory.write, Memory.read, h]
  | cons cell rest ih =>
    obtain ⟨k, x⟩ := cell
    unfold Memory.write
    split
    · simp [Memory.read, h]
    · split
      · subst_vars; simp [Memory.read, h]
      · simp [Memory.read, ih]

theorem Memory.read_writeFrom (m : Memory) (i : Nat) (bs : List Byte) (j : Nat) :
    (m.writeFrom i bs).read j = if i ≤ j ∧ j < i + bs.length then bs[j - i]? else m.read j := by
  induction bs generalizing m i with
  | nil => simp only [Memory.writeFrom, List.length_nil]; rw [if_neg (by omega)]
  | cons b bs ih =>
    simp only [Memory.writeFrom, ih, List.length_cons]
    by_cases hji : j = i
    · subst hji
      rw [if_neg (by omega), if_pos (by omega), Memory.read_write_same]
      simp
    · rw [Memory.read_write_other _ _ hji]
      by_cases hr : i + 1 ≤ j ∧ j < i + 1 + bs.length
      · rw [if_pos hr, if_pos (by omega), show j - i = (j - (i + 1)) + 1 by omega, List.getElem?_cons_succ]
      · rw [if_neg hr, if_neg (by omega)]

theorem Memory.mem_write {m : Memory} {i : Nat} {b : Byte} {cell : Host.Cell} (h : cell ∈ m.write i b) :
    cell = (i, b) ∨ cell ∈ m := by
  induction m with
  | nil => simpa [Memory.write] using h
  | cons hd rest ih =>
    obtain ⟨j, x⟩ := hd
    unfold Memory.write at h
    split at h
    · simpa using h
    · split at h
      · rcases List.mem_cons.mp h with h | h
        · exact .inl h
        · exact .inr (List.mem_cons_of_mem _ h)
      · rcases List.mem_cons.mp h with h | h
        · exact .inr (h ▸ List.mem_cons_self)
        · exact (ih h).imp id (List.mem_cons_of_mem _)

theorem Memory.wf_write {m : Memory} (hm : Memory.wf m) (i : Nat) (b : Byte) : Memory.wf (m.write i b) := by
  induction m with
  | nil => simp [Memory.wf, Memory.write]
  | cons hd rest ih =>
    obtain ⟨j, x⟩ := hd
    have ⟨hlt, hrest⟩ := List.pairwise_cons.mp hm
    unfold Memory.write
    split
    · rename_i hij
      refine List.pairwise_cons.mpr ⟨?_, hm⟩
      intro cell hc
      rcases List.mem_cons.mp hc with rfl | hc
      · exact hij
      · exact Nat.lt_trans hij (hlt cell hc)
    · split
      · subst_vars; exact List.pairwise_cons.mpr ⟨hlt, hrest⟩
      · refine List.pairwise_cons.mpr ⟨?_, ih hrest⟩
        intro cell hc
        rcases Memory.mem_write hc with rfl | hc
        · show j < i; omega
        · exact hlt cell hc

theorem Memory.wf_writeFrom {m : Memory} (hm : Memory.wf m) (i : Nat) (bs : List Byte) :
    Memory.wf (m.writeFrom i bs) := by
  induction bs generalizing m i with
  | nil => exact hm
  | cons b bs ih => exact ih (Memory.wf_write hm i b) (i + 1)

theorem Memory.mem_writeFrom {m : Memory} {i : Nat} {bs : List Byte} {cell : Host.Cell}
    (h : cell ∈ m.writeFrom i bs) : (i ≤ cell.1 ∧ cell.1 < i + bs.length) ∨ cell ∈ m := by
  induction bs generalizing m i with
  | nil => exact .inr h
  | cons b bs ih =>
    rcases ih h with h | h
    · left; simp only [List.length_cons]; omega
    · rcases Memory.mem_write h with rfl | h
      · left; simp
      · exact .inr h

theorem Memory.wf_reset (c : Config) : Memory.wf (State.resetWith c).buf := List.Pairwise.nil

end Sys2Proof.Machine
end

