-- ==== Sys2Proof/Laws/Engine.lean ====
section
/-! SUPPORT. What each shared operation of Machine/Ops.lean can do, said once: `transact_next` for a whole transaction
(spec/40_bus_transaction.md R121), and the operations built on it or beside it. Proofs cite these and unfold no operation. -/

namespace Sys2Proof.Machine

/-- One exchange changes the slave and the event list only (R120). -/
theorem xfer_next (m : Byte) (s : State) :
    ∃ b sl, s.slave.exchange s.cfg s.trace m = (b, sl) ∧
      xfer m s = (b, { s with slave := sl, trace := s.trace ++ [.xfer m b] }) :=
  ⟨_, _, rfl, rfl⟩

theorem chipSelectWait_eq (t : Nat) (s : State) :
    chipSelectWait t s = { s with trace := s.trace ++ chipSelectEvents t } := by
  unfold chipSelectWait chipSelectEvents
  split <;> simp [emit]

theorem idleWait_eq (s : State) :
    idleWait s = { s with trace := s.trace ++ (if s.hadFrame then chipSelectEvents s.cfg.tCsIdle else []) } := by
  unfold idleWait State.hadFrame
  split <;> simp [chipSelectWait_eq]

/-- The data exchanges of a frame: one received byte for each byte sent, each recorded in order (R121). -/
theorem xferData_next (tx : List Byte) (s : State) :
    ∃ rx sl, rx.length = tx.length ∧
      xferData tx s = (rx, { s with
        slave := sl, idx := s.idx + tx.length, trace := s.trace ++ (tx.zip rx).map (fun p => .xfer p.1 p.2) }) := by
  induction tx generalizing s with
  | nil => exact ⟨[], s.slave, rfl, by simp [xferData]⟩
  | cons m ms ih =>
    obtain ⟨b, sl, -, hx⟩ := xfer_next m s
    obtain ⟨rx, sl', hlen, hd⟩ := ih { s with slave := sl, trace := s.trace ++ [.xfer m b], idx := s.idx + 1 }
    refine ⟨b :: rx, sl', by simp [hlen], ?_⟩
    simp only [xferData, hx, hd]
    simp [Nat.add_assoc, Nat.add_comm 1]

/-- A whole transaction (R121): for some status byte, some received bytes, one for each byte sent, and some slave after it,
the state after is `afterFrame`. -/
theorem transact_next (c : Byte) (tx : List Byte) (d : Dir) (s : State) :
    ∃ st rx sl, rx.length = tx.length ∧ transact c tx d s = (st, rx, s.afterFrame c d st (tx.zip rx) sl) := by
  unfold transact
  simp only [openFrame, idleWait_eq, chipSelectWait_eq, setCsn, emit, xferCommand]
  obtain ⟨st, sl₁, -, hx⟩ := xfer_next c
    { s with
      csn := false, cmdb := c, len := tx.length, dir := d, idx := 0, phase := .cmd, slave := s.slave.onCsn s.cfg false
      trace := s.trace ++ (if s.hadFrame then chipSelectEvents s.cfg.tCsIdle else []) ++ [.csn false] ++
        chipSelectEvents s.cfg.tCsSetup }
  rw [hx]
  obtain ⟨rx, sl₂, hlen, hd⟩ := xferData_next tx
    { s with
      csn := false, cmdb := c, len := tx.length, dir := d, idx := 0, phase := .data, slave := sl₁
      statusLatch := st, statusValid := true
      trace := s.trace ++ (if s.hadFrame then chipSelectEvents s.cfg.tCsIdle else []) ++ [.csn false] ++
        chipSelectEvents s.cfg.tCsSetup ++ [.xfer c st] }
  refine ⟨st, rx, sl₂.onCsn s.cfg true, hlen, ?_⟩
  simp only [hd, closeFrame, chipSelectWait_eq, setCsn, emit]
  simp [State.afterFrame, frameEvents, hlen]

/-! What is heard of an unknown slave (R62): its queued answers, in order, as far as they go -/

@[simp] theorem heard_nil : heard [] = [] := rfl
@[simp] theorem heard_csn (l : Bool) (es : List Event) : heard (.csn l :: es) = heard es := rfl
@[simp] theorem heard_ce (l : Bool) (es : List Event) : heard (.ce l :: es) = heard es := rfl
@[simp] theorem heard_wait (t : Duration) (es : List Event) : heard (.wait t :: es) = heard es := rfl
@[simp] theorem heard_xfer (m b : Byte) (es : List Event) : heard (.xfer m b :: es) = b :: heard es := rfl

@[simp] theorem heard_append (es es' : List Event) : heard (es ++ es') = heard es ++ heard es' := by simp [heard]

@[simp] theorem heard_chipSelectEvents (t : Nat) : heard (chipSelectEvents t) = [] := by
  unfold chipSelectEvents
  split <;> simp

theorem heard_exchanges (io : List (Byte × Byte)) : heard (io.map fun p => .xfer p.1 p.2) = io.map (·.2) := by
  induction io with
  | nil => rfl
  | cons p io ih => simp [ih]

theorem heard_frame (c : Config) (prev : Bool) (cmd st : Byte) (io : List (Byte × Byte)) :
    heard (frameEvents c prev cmd st io) = st :: io.map (·.2) := by
  cases prev <;> simp [frameEvents, heard_exchanges]

theorem exchange_hears {c : Config} {history : List Event} {m : Byte} {sl : Slave} {id : Nat} {answers : List Byte}
    (h : sl = .oracle id answers) :
    (sl.exchange c history m).2 = .oracle id answers.tail ∧
      [(sl.exchange c history m).1].take answers.length = answers.take 1 := by
  subst h
  cases answers <;> simp [Slave.exchange]

theorem xferData_hears {tx : List Byte} {s : State} {id : Nat} {answers : List Byte} (h : s.slave = .oracle id answers) :
    (xferData tx s).2.slave = .oracle id (answers.drop tx.length) ∧
      (xferData tx s).1.take answers.length = answers.take tx.length := by
  induction tx generalizing s answers with
  | nil => simp [xferData, h]
  | cons m tx ih =>
    obtain ⟨h₁, h₂⟩ := exchange_hears (c := s.cfg) (history := s.trace) (m := m) h
    obtain ⟨h₃, h₄⟩ := ih (s := { (xfer m s).2 with idx := (xfer m s).2.idx + 1 }) h₁
    refine ⟨by simpa [xferData] using h₃, ?_⟩
    cases answers with
    | nil => simp
    | cons b answers => simpa [xferData, xfer] using ⟨by simpa using h₂, h₄⟩

theorem transact_hears (c : Byte) (tx : List Byte) (d : Dir) (s : State) (id : Nat) (answers : List Byte)
    (h : s.slave = .oracle id answers) :
    (transact c tx d s).2.2.slave = .oracle id (answers.drop (tx.length + 1)) ∧
      ((transact c tx d s).1 :: (transact c tx d s).2.1).take answers.length = answers.take (tx.length + 1) := by
  have h₀ : (openFrame c tx.length d s).slave = .oracle id answers := by
    simp [openFrame, idleWait_eq, chipSelectWait_eq, setCsn, emit, h, Slave.onCsn]
  obtain ⟨h₁, h₂⟩ := exchange_hears (c := (openFrame c tx.length d s).cfg) (history := (openFrame c tx.length d s).trace) (m := c) h₀
  obtain ⟨h₃, h₄⟩ := xferData_hears (tx := tx) (s := (xferCommand c (openFrame c tx.length d s)).2) h₁
  refine ⟨?_, ?_⟩
  · simp only [transact, closeFrame, chipSelectWait_eq, setCsn, emit, h₃]
    simp [Slave.onCsn]
  · cases answers with
    | nil => simp
    | cons b answers => simpa [transact, xferCommand, xfer] using ⟨by simpa using h₂, h₄⟩

/-- A transaction of the command byte alone. -/
theorem commandOnly_next (c : Byte) (s : State) :
    ∃ st sl, commandOnly c s = (st, s.afterFrame c .send st [] sl) := by
  obtain ⟨st, rx, sl, -, h⟩ := transact_next c [] .send s
  exact ⟨st, sl, by simp [commandOnly, h]⟩

/-- `MemRead` (R7): DUMMY_BYTE goes out for each byte that comes in. -/
theorem memRead_next (addr : Byte) (n : Nat) (s : State) :
    ∃ st rx sl, rx.length = n ∧
      memRead addr n s =
        (rx, s.afterFrame (s.cfg.opcRRegister ||| addr) .recv st (rx.map fun b => (s.cfg.dummyByte, b)) sl) := by
  obtain ⟨st, rx, sl, hlen, h⟩ :=
    transact_next (readCommand s.cfg addr) (List.replicate n s.cfg.dummyByte) .recv s
  simp only [List.length_replicate] at hlen
  refine ⟨st, rx, sl, hlen, ?_⟩
  have hz : ∀ (k : Nat) (l : List Byte), l.length = k →
      (List.replicate k s.cfg.dummyByte).zip l = l.map fun b => (s.cfg.dummyByte, b) := by
    intro k l
    induction l generalizing k with
    | nil => intro hk; simp
    | cons b l ih => intro hk; subst hk; simp [List.replicate_succ, ih l.length rfl]
  simp only [memRead, h, hz n rx hlen]
  rfl

/-- One byte read from a slave register. -/
theorem memReadByte_next (addr : Byte) (s : State) :
    ∃ st b sl, memReadByte addr s =
      (b, s.afterFrame (s.cfg.opcRRegister ||| addr) .recv st [(s.cfg.dummyByte, b)] sl) := by
  obtain ⟨st, rx, sl, hlen, h⟩ := memRead_next addr 1 s
  obtain ⟨b, rfl⟩ := List.length_eq_one_iff.mp hlen
  exact ⟨st, b, sl, by simp [memReadByte, h]⟩

/-- `MemWrite` (R7): the bytes go out, and what comes in is discarded. -/
theorem memWrite_next (addr : Byte) (v : List Byte) (s : State) :
    ∃ st rx sl, rx.length = v.length ∧
      memWrite addr v s = s.afterFrame (s.cfg.opcWRegister ||| addr) .send st (v.zip rx) sl := by
  obtain ⟨st, rx, sl, hlen, h⟩ := transact_next (writeCommand s.cfg addr) v .send s
  exact ⟨st, rx, sl, hlen, by simp only [memWrite, h]; rfl⟩

/-- A read of one byte of BUF: a written byte is itself, and only an unwritten one draws (R26). -/
theorem readBuf_next (i : Nat) (s : State) :
    ∃ b, (∀ x, s.buf.read i = some x → b = x) ∧
      readBuf i s = (b, { s with draws := s.draws + if (s.buf.read i).isNone then 1 else 0 }) := by
  unfold readBuf
  cases h : s.buf.read i with
  | some x => exact ⟨x, by simp, by simp⟩
  | none => exact ⟨_, by simp, rfl⟩

theorem readBufFrom_next_from (i n : Nat) (s : State) :
    ∃ tx, tx.length = n ∧ (∀ k b, k < n → s.buf.read (i + k) = some b → tx[k]? = some b) ∧
      readBufFrom i n s =
        (tx, { s with draws := s.draws + (List.range' i n).countP fun j => (s.buf.read j).isNone }) := by
  induction n generalizing i s with
  | zero => exact ⟨[], rfl, by simp, by simp [readBufFrom]⟩
  | succ n ih =>
    obtain ⟨b, hb, hr⟩ := readBuf_next i s
    obtain ⟨tx, hlen, htx, hq⟩ := ih (i + 1) { s with draws := s.draws + if (s.buf.read i).isNone then 1 else 0 }
    refine ⟨b :: tx, by simp [hlen], ?_, ?_⟩
    · intro k x hk hx
      cases k with
      | zero => simp [hb x (by simpa using hx)]
      | succ k => simpa using htx k x (by omega) (by rwa [show i + 1 + k = i + (k + 1) by omega])
    · simp only [readBufFrom, hr, hq, List.range'_succ, List.countP_cons]
      simp [Nat.add_assoc, Nat.add_comm]

/-- A read of BUF[0..n-1] (R26). -/
theorem readBufFrom_next (n : Nat) (s : State) :
    ∃ tx, s.sendsBuf n tx ∧ readBufFrom 0 n s = (tx, { s with draws := s.draws + s.unwrittenBelow n }) := by
  obtain ⟨tx, hlen, htx, h⟩ := readBufFrom_next_from 0 n s
  refine ⟨tx, ⟨hlen, fun i b hi hb => htx i b hi (by simpa using hb)⟩, ?_⟩
  rw [h, State.unwrittenBelow, List.range_eq_range']

/-- A register write as the sequences use it: WRITE_REG past its refusal (R132). -/
theorem doWriteReg_next (addr value : Byte) (s : State) :
    ∃ st b sl, doWriteReg addr value s =
      { s.afterFrame (s.cfg.opcWRegister ||| addr) .send st [(value, b)] sl with resErr := false } := by
  obtain ⟨st, rx, sl, hlen, h⟩ := memWrite_next addr [value] s
  obtain ⟨b, rfl⟩ := List.length_eq_one_iff.mp hlen
  exact ⟨st, b, sl, by simp [doWriteReg, h, reportOk]⟩

/-- After one transaction there has been a `CSN(1)`. -/
@[simp] theorem hadFrame_afterFrame (s : State) (c : Byte) (d : Dir) (st : Byte) (io : List (Byte × Byte)) (sl : Slave) :
    (s.afterFrame c d st io sl).hadFrame = true := by
  simp [State.hadFrame, frameEvents]

/-- The status port shows STATUS_LATCH once it is valid, and before that some byte (R28). -/
theorem statusPort_next (s : State) :
    ∃ latched k, statusPort s = (latched, { s with draws := k }) ∧
      (s.statusValid = true → latched = s.statusLatch ∧ k = s.draws) := by
  unfold statusPort
  split
  · exact ⟨_, _, rfl, fun _ => ⟨rfl, rfl⟩⟩
  · exact ⟨_, _, rfl, fun h => absurd h ‹_›⟩

/-- `rst` as an input: the controller is reset, and only a slave whose command was cut off is forgotten (R230 to R232). -/
theorem rstInput_eq (s : State) :
    rstInput s = { State.resetWith s.cfg with
      slave := if s.busy then s.slave.forget else s.slave, inputs := s.inputs
      trace := s.trace ++ resetEvents s.csn s.ce, draws := s.draws } := rfl

end Sys2Proof.Machine
end

