-- ==== Sys2Proof/Laws/Commands.lean ====
section
/-! SUPPORT. What each command does once it is past its refusals, said once: the `do…` definitions of Machine/, each as one explicit
next state (spec files 41 to 46), and what the events of a frame drive. -/

namespace Sys2Proof.Machine

/-! Register addresses and lengths -/

theorem addrOutside_eq (c : Config) (a : Byte) : addrOutside c a = decide (clearBits a c.addrMask ≠ 0#8) := by
  unfold addrOutside
  by_cases h : clearBits a c.addrMask = 0#8 <;> simp [h]

theorem addrInMask_eq (c : Config) (a : Byte) : c.addrInMask a = !addrOutside c a := by
  simp [Config.addrInMask, addrOutside, clearBits, bne]

theorem receives_storeBuf (s : State) (rx : List Byte) : s.receives rx (s.buf.writeFrom 0 rx) := by
  intro j
  simp [Memory.read_writeFrom]

/-- The pairs of a receiving frame: DUMMY_BYTE out for each byte in (R123). -/
theorem zip_replicate (d : Byte) (l : List Byte) : (List.replicate l.length d).zip l = l.map fun b => (d, b) := by
  induction l with
  | nil => rfl
  | cons b l ih => simp [List.replicate_succ, ih]

/-! Bits -/

/-- R136 on one bit: the named bit takes the value, every other bit stays. -/
theorem assignBit_getLsbD (old : Byte) (k : Nat) (v : Bool) (j : Nat) (hj : j < 8) :
    (assignBit old k v).getLsbD j = if j = k then v else old.getLsbD j := by
  unfold assignBit bitAt clearBits
  rcases Nat.lt_trichotomy j k with h | h | h
  · have hk : j ≠ k := by omega
    split <;> simp [hj, h]
  · subst h
    split <;> simp_all
  · have hk : j ≠ k := by omega
    have h1 : ¬j < k := by omega
    have h2 : j - k ≠ 0 := by omega
    split <;> simp [hj, h1, h2]

/-- R135: testing the named bit. -/
theorem testBit_eq (b : Byte) (k : Nat) (hk : k < 8) : testBit b k = b.getLsbD k := by
  unfold testBit bitAt
  by_cases hb : b.getLsbD k = true
  · have hne : b &&& 1#8 <<< k ≠ 0#8 := by
      intro h0
      have := congrArg (fun x : Byte => x.getLsbD k) h0
      rw [BitVec.getLsbD_and, hb] at this
      simp [hk] at this
    simp [hb, hne]
  · have hz : b &&& 1#8 <<< k = 0#8 := by
      apply BitVec.eq_of_getLsbD_eq
      intro j hj
      by_cases hjk : j = k
      · subst hjk; simp [hb]
      · have : j < k ∨ j - k ≠ 0 := by omega
        rcases this with h | h
        · simp [h]
        · simp [h]
    simp [hb, hz]

/-! Register access -/

theorem doReadReg_next (addr : Byte) (s : State) :
    ∃ st b sl, doReadReg addr s =
      { s.afterFrame (s.cfg.opcRRegister ||| addr) .recv st [(s.cfg.dummyByte, b)] sl with
        resData := b, resErr := false } := by
  obtain ⟨st, b, sl, h⟩ := memReadByte_next addr s
  exact ⟨st, b, sl, by simp [doReadReg, h, reportOk]⟩

theorem doReadRegMulti_next (addr : Byte) (n : Nat) (s : State) :
    ∃ st rx sl, rx.length = n ∧ doReadRegMulti addr n s =
      { s.afterFrame (s.cfg.opcRRegister ||| addr) .recv st (rx.map fun b => (s.cfg.dummyByte, b)) sl with
        buf := s.buf.writeFrom 0 rx, resErr := false } := by
  obtain ⟨st, rx, sl, hl, h⟩ := memRead_next addr n s
  exact ⟨st, rx, sl, hl, by simp [doReadRegMulti, h, reportOk, storeBuf]⟩

theorem doWriteRegMulti_next (addr : Byte) (n : Nat) (s : State) :
    ∃ tx st rx sl, s.sendsBuf n tx ∧ rx.length = n ∧ doWriteRegMulti addr n s =
      { s.afterFrame (s.cfg.opcWRegister ||| addr) .send st (tx.zip rx) sl with
        draws := s.draws + s.unwrittenBelow n, resErr := false } := by
  obtain ⟨tx, htx, hr⟩ := readBufFrom_next n s
  obtain ⟨st, rx, sl, hl, h⟩ := memWrite_next addr tx { s with draws := s.draws + s.unwrittenBelow n }
  refine ⟨tx, st, rx, sl, htx, hl.trans htx.1, ?_⟩
  simp only [doWriteRegMulti, hr, h, reportOk]
  rfl

theorem doReadBit_next (addr : Byte) (k : Nat) (hk : k < 8) (s : State) :
    ∃ st b sl, doReadBit addr k s =
      { s.afterFrame (s.cfg.opcRRegister ||| addr) .recv st [(s.cfg.dummyByte, b)] sl with
        resData := b, resFlag := b.getLsbD k, resErr := false } := by
  obtain ⟨st, b, sl, h⟩ := memReadByte_next addr s
  exact ⟨st, b, sl, by simp [doReadBit, h, reportOk, testBit_eq b k hk]⟩

theorem doWriteBit_next (addr : Byte) (k : Nat) (v : Bool) (s : State) :
    ∃ st₁ old sl₁ st₂ b sl₂, doWriteBit addr k v s =
      { (s.afterFrame (s.cfg.opcRRegister ||| addr) .recv st₁ [(s.cfg.dummyByte, old)] sl₁).afterFrame
          (s.cfg.opcWRegister ||| addr) .send st₂ [(assignBit old k v, b)] sl₂ with
        resData := assignBit old k v, resErr := false } := by
  obtain ⟨st₁, old, sl₁, h₁⟩ := memReadByte_next addr s
  obtain ⟨st₂, rx, sl₂, hl, h₂⟩ := memWrite_next addr [assignBit old k v]
    (s.afterFrame (s.cfg.opcRRegister ||| addr) .recv st₁ [(s.cfg.dummyByte, old)] sl₁)
  obtain ⟨b, rfl⟩ := List.length_eq_one_iff.mp hl
  exact ⟨st₁, old, sl₁, st₂, b, sl₂, by simp [doWriteBit, h₁, h₂, reportOk]⟩

/-! Payloads and FIFOs -/

theorem doWriteTxPayload_next (s : State) :
    ∃ tx st rx sl, s.sendsBuf s.payloadSize.toNat tx ∧ rx.length = s.payloadSize.toNat ∧ doWriteTxPayload s =
      { s.afterFrame s.cfg.opcWTxPayload .send st (tx.zip rx) sl with
        draws := s.draws + s.unwrittenBelow s.payloadSize.toNat, resErr := false } := by
  obtain ⟨tx, htx, hr⟩ := readBufFrom_next s.payloadSize.toNat s
  obtain ⟨st, rx, sl, hl, h⟩ := transact_next s.cfg.opcWTxPayload tx .send
    { s with draws := s.draws + s.unwrittenBelow s.payloadSize.toNat }
  refine ⟨tx, st, rx, sl, htx, hl.trans htx.1, ?_⟩
  simp only [doWriteTxPayload, hr, h, reportOk]
  rfl

theorem doReadRxPayload_next (s : State) :
    ∃ tx st rx sl, s.sendsBuf s.payloadSize.toNat tx ∧ rx.length = s.payloadSize.toNat ∧ doReadRxPayload s =
      { s.afterFrame s.cfg.opcRRxPayload .duplex st (tx.zip rx) sl with
        draws := s.draws + s.unwrittenBelow s.payloadSize.toNat, buf := s.buf.writeFrom 0 rx, resErr := false } := by
  obtain ⟨tx, htx, hr⟩ := readBufFrom_next s.payloadSize.toNat s
  obtain ⟨st, rx, sl, hl, h⟩ := transact_next s.cfg.opcRRxPayload tx .duplex
    { s with draws := s.draws + s.unwrittenBelow s.payloadSize.toNat }
  refine ⟨tx, st, rx, sl, htx, hl.trans htx.1, ?_⟩
  simp only [doReadRxPayload, hr, h, reportOk, storeBuf]
  rfl

theorem doFlushTx_next (s : State) :
    ∃ st sl, doFlushTx s = { s.afterFrame s.cfg.opcFlushTx .send st [] sl with resErr := false } := by
  obtain ⟨st, sl, h⟩ := commandOnly_next s.cfg.opcFlushTx s
  exact ⟨st, sl, by simp [doFlushTx, h, reportOk]⟩

theorem doFlushRx_next (s : State) :
    ∃ st sl, doFlushRx s = { s.afterFrame s.cfg.opcFlushRx .send st [] sl with resErr := false } := by
  obtain ⟨st, sl, h⟩ := commandOnly_next s.cfg.opcFlushRx s
  exact ⟨st, sl, by simp [doFlushRx, h, reportOk]⟩

/-! Lines -/

theorem doCeSet_eq (l : Bool) (s : State) :
    doCeSet l s = { s with ce := l, trace := s.trace ++ [.ce l], resErr := false } := rfl

theorem doDelayMs_eq (n : Nat) (s : State) :
    doDelayMs n s = { s with trace := s.trace ++ [.wait (.ms n)], resErr := false } := rfl

/-! Sequences of one frame -/

theorem doPowerUpTx_eq (s : State) : doPowerUpTx s = doWriteReg s.cfg.regConfig s.cfg.cfgTx s := rfl

theorem doSetChannel_next (channel : Byte) (s : State) :
    ∃ st b sl, doSetChannel channel s =
      if channelAccepted s.cfg s.channelCache channel then
        { s.afterFrame (s.cfg.opcWRegister ||| s.cfg.regRfCh) .send st [(channel, b)] sl with
          channelCache := channel, resErr := false }
      else
        { s.afterFrame (s.cfg.opcWRegister ||| s.cfg.regRfCh) .send st [(s.cfg.chFallback, b)] sl with
          resErr := true } := by
  unfold doSetChannel
  split
  · obtain ⟨st, b, sl, h⟩ := doWriteReg_next s.cfg.regRfCh channel s
    exact ⟨st, b, sl, by simp [h]⟩
  · obtain ⟨st, b, sl, h⟩ := doWriteReg_next s.cfg.regRfCh s.cfg.chFallback s
    exact ⟨st, b, sl, by simp [h]⟩

theorem doSetRfParameters_next (rate : DataRate) (power : TxPower) (s : State) :
    ∃ st b sl, doSetRfParameters rate power s =
      { s.afterFrame (s.cfg.opcWRegister ||| s.cfg.regRfSetup) .send st [(rfSetup s.cfg rate power, b)] sl with
        dataRate := rate, txPower := power, resErr := false } := by
  obtain ⟨st, b, sl, h⟩ := doWriteReg_next s.cfg.regRfSetup (rfSetup s.cfg rate power) s
  exact ⟨st, b, sl, by simp [doSetRfParameters, h, reportOk]⟩

/-! The events of frames, as the controller drives them -/

@[simp] theorem driven_nil : driven [] = [] := rfl

@[simp] theorem driven_cons (e : Event) (es : List Event) : driven (e :: es) = withoutMiso e :: driven es := rfl

@[simp] theorem driven_append (xs ys : List Event) : driven (xs ++ ys) = driven xs ++ driven ys := by
  simp [driven]

@[simp] theorem driven_chipSelectEvents (t : Nat) : driven (chipSelectEvents t) = chipSelectEvents t := by
  unfold chipSelectEvents
  split <;> rfl

/-- A frame drives its command byte and its MOSI bytes, whatever the slave answers. -/
theorem driven_frameEvents (c : Config) (p : Bool) (cmd st : Byte) (io : List (Byte × Byte)) :
    driven (frameEvents c p cmd st io) = frameEvents c p cmd 0#8 (io.map fun x => (x.1, 0#8)) := by
  unfold frameEvents
  have hm : driven (io.map fun x => .xfer x.1 x.2) = io.map fun x => .xfer x.1 0#8 := by
    simp [driven, withoutMiso]
  cases p <;> simp [withoutMiso, hm, Function.comp_def]

/-- Sending `tx`, whatever comes back. -/
theorem map_zip_mosi {tx rx : List Byte} (h : rx.length = tx.length) :
    (tx.zip rx).map (fun x => (x.1, (0#8 : Byte))) = tx.map fun m => (m, 0#8) := by
  induction tx generalizing rx with
  | nil => simp
  | cons m tx ih =>
    cases rx with
    | nil => simp at h
    | cons b rx => simpa using ih (by simpa using h)

/-! The last status byte of an event list (R28), and the bus protocol (R21, R120) -/

theorem statusFrom_chipSelectEvents (f : Bool) (o : Option Byte) (t : Nat) (es : List Event) :
    statusFrom f o (chipSelectEvents t ++ es) = statusFrom f o es := by
  unfold chipSelectEvents
  split <;> rfl

theorem statusFrom_data (o : Option Byte) (io : List (Byte × Byte)) (es : List Event) :
    statusFrom false o (io.map (fun p => .xfer p.1 p.2) ++ es) = statusFrom false o es := by
  induction io with
  | nil => rfl
  | cons p io ih => simpa [statusFrom] using ih

/-- After a frame, the last status byte is that frame's. -/
theorem statusFrom_frame (f : Bool) (o : Option Byte) (c : Config) (p : Bool) (cmd st : Byte) (io : List (Byte × Byte))
    (es : List Event) : statusFrom f o (frameEvents c p cmd st io ++ es) = statusFrom false (some st) es := by
  unfold frameEvents
  cases p <;> simp [statusFrom_chipSelectEvents, statusFrom, statusFrom_data]

theorem statusFrom_append (f : Bool) (o : Option Byte) (xs ys : List Event) :
    ∃ f', statusFrom f o (xs ++ ys) = statusFrom f' (statusFrom f o xs) ys := by
  induction xs generalizing f o with
  | nil => exact ⟨f, rfl⟩
  | cons e xs ih => cases e <;> exact ih _ _

theorem replay_append (xs ys : List Event) (p : Bool × Bool) :
    replay (xs ++ ys) p = (replay xs p).bind (replay ys) := by
  induction xs generalizing p with
  | nil => rfl
  | cons e xs ih => cases e <;> simp only [List.cons_append, replay] <;> (try split) <;> simp [ih]

theorem replay_chipSelectEvents (t : Nat) (es : List Event) (p : Bool × Bool) :
    replay (chipSelectEvents t ++ es) p = replay es p := by
  unfold chipSelectEvents
  split <;> rfl

theorem replay_data (ce : Bool) (io : List (Byte × Byte)) (es : List Event) :
    replay (io.map (fun p => .xfer p.1 p.2) ++ es) (false, ce) = replay es (false, ce) := by
  induction io with
  | nil => rfl
  | cons p io ih => simpa [replay] using ih

/-- From CSN high, a frame breaks no rule of the bus, ends with CSN high and does not touch CE. -/
theorem replay_frame (ce : Bool) (c : Config) (p : Bool) (cmd st : Byte) (io : List (Byte × Byte)) (es : List Event) :
    replay (frameEvents c p cmd st io ++ es) (true, ce) = replay es (true, ce) := by
  unfold frameEvents
  cases p <;> simp [replay_chipSelectEvents, replay, replay_data]

/-- An event list that keeps the bus protocol leads to the pins it replays to. -/
theorem pinsAfter_of_replay {es : List Event} {p q : Bool × Bool} (h : replay es p = some q) : pinsAfter es p = q := by
  induction es generalizing p with
  | nil => simpa [replay, pinsAfter] using h
  | cons e es ih =>
    cases e <;> simp only [replay, pinsAfter] at h ⊢ <;> (try split at h) <;> first | exact ih h | cases h

/-- Cut short after any event, it has still kept the protocol. -/
theorem replay_take {es : List Event} {p q : Bool × Bool} (k : Nat) (h : replay es p = some q) :
    ∃ r, replay (es.take k) p = some r := by
  have e := replay_append (es.take k) (es.drop k) p
  rw [List.take_append_drop, h] at e
  cases hr : replay (es.take k) p with
  | none => rw [hr] at e; cases e
  | some r => exact ⟨r, rfl⟩

/-- `rst` brings the pins to CSN = 1, CE = 0, keeping the protocol (R232). -/
theorem replay_resetEvents (p : Bool × Bool) : replay (resetEvents p.1 p.2) p = some (true, false) := by
  obtain ⟨a, b⟩ := p
  cases a <;> cases b <;> rfl

end Sys2Proof.Machine
end

