-- ==== Sys2Proof/Laws/Sequences.lean ====
section
/-! SUPPORT. Several sending frames in a row, as one explicit state: what the sequences of spec/45_device_configuration.md and
spec/46_transmit_receive.md do between their line events (R170). -/

namespace Sys2Proof.Machine

/-- `s` after some sending frames whose events are `es`, the last with command byte `cmd`, `len` data bytes and status byte `st`. -/
def State.afterFrames (s : State) (cmd : Byte) (len : Nat) (st : Byte) (sl : Slave) (es : List Event) : State :=
  { s with
    csn := true, phase := .idle, idx := 0, cmdb := cmd, len := len, dir := .send
    statusLatch := st, statusValid := true, slave := sl, trace := s.trace ++ es, resErr := false }

/-- From `s`, the frames `fs` in a row lead to `t`, the last with command byte `cmd` and `len` data bytes. -/
def RunsFrames (s t : State) (fs : List (Byte × List Byte)) (cmd : Byte) (len : Nat) : Prop :=
  ∃ es st sl, t = s.afterFrames cmd len st sl es ∧ driven es = drivenFrames s.cfg s.hadFrame fs ∧
    (∀ f o ys, statusFrom f o (es ++ ys) = statusFrom false (some st) ys) ∧ .csn true ∈ es ∧ fs ≠ []

theorem drivenFrames_append (c : Config) (p : Bool) (fs gs : List (Byte × List Byte)) (h : fs ≠ []) :
    drivenFrames c p (fs ++ gs) = drivenFrames c p fs ++ drivenFrames c true gs := by
  induction fs generalizing p with
  | nil => exact absurd rfl h
  | cons f fs ih =>
    cases fs with
    | nil => simp [drivenFrames]
    | cons g fs =>
      have := ih true (by simp)
      simp only [List.cons_append, drivenFrames, List.append_assoc] at this ⊢
      rw [this]

theorem RunsFrames.trans {s t u : State} {fs gs : List (Byte × List Byte)} {c₁ c₂ : Byte} {n₁ n₂ : Nat}
    (h₁ : RunsFrames s t fs c₁ n₁) (h₂ : RunsFrames t u gs c₂ n₂) : RunsFrames s u (fs ++ gs) c₂ n₂ := by
  obtain ⟨es, st, sl, rfl, hd, hs, hm, hne⟩ := h₁
  obtain ⟨es', st', sl', rfl, hd', hs', hm', hne'⟩ := h₂
  have hf : (s.afterFrames c₁ n₁ st sl es).hadFrame = true := by
    simp [State.hadFrame, State.afterFrames, hm]
  refine ⟨es ++ es', st', sl', ?_, ?_, ?_, ?_, ?_⟩
  · simp [State.afterFrames]
  · rw [driven_append, hd, hd', hf, drivenFrames_append _ _ _ _ hne]; rfl
  · intro f o ys
    rw [List.append_assoc, hs, hs']
  · simp [hm]
  · simp [hne]

theorem frameEvents_mem (c : Config) (p : Bool) (cmd st : Byte) (io : List (Byte × Byte)) :
    .csn true ∈ frameEvents c p cmd st io := by
  simp [frameEvents]

/-- One sending frame. -/
theorem RunsFrames.one (s : State) (cmd st : Byte) (tx rx : List Byte) (sl : Slave) (h : rx.length = tx.length) :
    RunsFrames s { s.afterFrame cmd .send st (tx.zip rx) sl with resErr := false } [(cmd, tx)] cmd tx.length := by
  refine ⟨frameEvents s.cfg s.hadFrame cmd st (tx.zip rx), st, sl, ?_, ?_, ?_, ?_, ?_⟩
  · simp [State.afterFrames, State.afterFrame, h]
  · simp [driven_frameEvents, map_zip_mosi h, drivenFrames]
  · intro f o ys; exact statusFrom_frame ..
  · exact frameEvents_mem ..
  · simp

theorem doWriteReg_runs (addr value : Byte) (s : State) :
    RunsFrames s (doWriteReg addr value s) [writeFrame s.cfg addr value] (s.cfg.opcWRegister ||| addr) 1 := by
  obtain ⟨st, b, sl, h⟩ := doWriteReg_next addr value s
  rw [h]
  exact RunsFrames.one s _ st [value] [b] sl rfl

theorem doFlushTx_runs (s : State) : RunsFrames s (doFlushTx s) [(s.cfg.opcFlushTx, [])] s.cfg.opcFlushTx 0 := by
  obtain ⟨st, sl, h⟩ := doFlushTx_next s
  rw [h]
  exact RunsFrames.one s _ st [] [] sl rfl

theorem doFlushRx_runs (s : State) : RunsFrames s (doFlushRx s) [(s.cfg.opcFlushRx, [])] s.cfg.opcFlushRx 0 := by
  obtain ⟨st, sl, h⟩ := doFlushRx_next s
  rw [h]
  exact RunsFrames.one s _ st [] [] sl rfl

theorem RunsFrames.cfg {s t : State} {fs : List (Byte × List Byte)} {c : Byte} {n : Nat} (h : RunsFrames s t fs c n) :
    t.cfg = s.cfg := by
  obtain ⟨es, st, sl, rfl, -⟩ := h
  rfl

theorem RunsFrames.payloadSize {s t : State} {fs : List (Byte × List Byte)} {c : Byte} {n : Nat}
    (h : RunsFrames s t fs c n) : t.payloadSize = s.payloadSize := by
  obtain ⟨es, st, sl, rfl, -⟩ := h
  rfl

theorem RunsFrames.buf {s t : State} {fs : List (Byte × List Byte)} {c : Byte} {n : Nat}
    (h : RunsFrames s t fs c n) : t.buf = s.buf := by
  obtain ⟨es, st, sl, rfl, -⟩ := h
  rfl

/-- SET_RF_PARAMETERS with the values DeviceState already has is one register write (R171 step 5). -/
theorem doSetRfParameters_same (s : State) :
    doSetRfParameters s.dataRate s.txPower s =
      doWriteReg s.cfg.regRfSetup (rfSetup s.cfg s.dataRate s.txPower) s := by
  obtain ⟨st, b, sl, h⟩ := doWriteReg_next s.cfg.regRfSetup (rfSetup s.cfg s.dataRate s.txPower) s
  simp only [doSetRfParameters, h, reportOk]
  rfl

/-- R171 steps 3 to 7. -/
theorem initRegisters_runs (s : State) :
    ∃ cmd, RunsFrames s (initRegisters s)
      [writeFrame s.cfg s.cfg.regConfig s.cfg.cfgBase, writeFrame s.cfg s.cfg.regSetupRetr s.cfg.retrValue,
        writeFrame s.cfg s.cfg.regRfSetup (rfSetup s.cfg s.dataRate s.txPower),
        writeFrame s.cfg s.cfg.regDynpd s.cfg.dynpdOff, writeFrame s.cfg s.cfg.regFeature s.cfg.featureOff,
        writeFrame s.cfg s.cfg.regStatus s.cfg.clrAll] cmd 1 := by
  have r₁ := doWriteReg_runs s.cfg.regConfig s.cfg.cfgBase s
  have r₂ := r₁.trans (doWriteReg_runs s.cfg.regSetupRetr s.cfg.retrValue _)
  rw [r₁.cfg] at r₂
  simp only [initRegisters, doSetRfParameters_same]
  generalize doWriteReg s.cfg.regSetupRetr s.cfg.retrValue (doWriteReg s.cfg.regConfig s.cfg.cfgBase s) = q at r₂
  have hq : q.dataRate = s.dataRate ∧ q.txPower = s.txPower := by
    obtain ⟨_, _, _, rfl, -⟩ := r₂
    exact ⟨rfl, rfl⟩
  have r₃ := r₂.trans (doWriteReg_runs q.cfg.regRfSetup (rfSetup q.cfg q.dataRate q.txPower) q)
  rw [hq.1, hq.2, r₂.cfg] at r₃ ⊢
  have r₄ := r₃.trans (doWriteReg_runs s.cfg.regDynpd s.cfg.dynpdOff _)
  have r₅ := r₄.trans (doWriteReg_runs s.cfg.regFeature s.cfg.featureOff _)
  have r₆ := r₅.trans (doWriteReg_runs s.cfg.regStatus s.cfg.clrAll _)
  rw [r₅.cfg, r₄.cfg, r₃.cfg] at r₆
  exact ⟨_, r₆⟩

/-- Step 10 of R171: one frame a pipe, in order. -/
theorem writePipeWidths_runs (c : Byte) (as : List Byte) (s : State) :
    ∃ cmd, RunsFrames s (writePipeWidths (c :: as) s)
      ((c :: as).map fun a => writeFrame s.cfg a (payloadByte s.payloadSize)) cmd 1 := by
  induction as generalizing c s with
  | nil => exact ⟨_, doWriteReg_runs c (payloadByte s.payloadSize) s⟩
  | cons a as ih =>
    have h₁ := doWriteReg_runs c (payloadByte s.payloadSize) s
    obtain ⟨cmd, h₂⟩ := ih a (doWriteReg c (payloadByte s.payloadSize) s)
    rw [h₁.cfg, h₁.payloadSize] at h₂
    exact ⟨cmd, h₁.trans h₂⟩

/-- R171 steps 9 to 11. -/
theorem initFinish_runs (s : State) :
    RunsFrames s (initFinish s)
      ([(s.cfg.opcFlushTx, []), (s.cfg.opcFlushRx, [])] ++
        (s.cfg.regRxPw.take s.cfg.nPipes).map (fun a => writeFrame s.cfg a (payloadByte s.payloadSize)) ++
        [writeFrame s.cfg s.cfg.regConfig s.cfg.cfgTx]) (s.cfg.opcWRegister ||| s.cfg.regConfig) 1 := by
  have r := (doFlushTx_runs s).trans (doFlushRx_runs (doFlushTx s))
  rw [(doFlushTx_runs s).cfg] at r
  unfold initFinish
  simp only [doPowerUpTx_eq]
  cases s.cfg.regRxPw.take s.cfg.nPipes with
  | nil =>
    have r' := r.trans (doWriteReg_runs s.cfg.regConfig s.cfg.cfgTx _)
    simpa [writePipeWidths, r.cfg] using r'
  | cons a as =>
    obtain ⟨cmd, hw⟩ := writePipeWidths_runs a as (doFlushRx (doFlushTx s))
    have r' := r.trans hw
    have r'' := r'.trans (doWriteReg_runs s.cfg.regConfig s.cfg.cfgTx _)
    rw [r'.cfg, r.cfg, r.payloadSize] at r''
    simpa [r'.cfg] using r''

/-- R171: the whole sequence, stage by stage. -/
theorem doInitialize_eq (channel payloadSize : Byte) (s : State) :
    doInitialize channel payloadSize s =
      { initFinish (doSetChannel channel (initRegisters
          { s with
            payloadSize := clampPayload s.cfg payloadSize, initDone := true, channelCache := s.cfg.chSentinel, ce := false
            trace := s.trace ++ [.ce false, .wait (.ms s.cfg.tSettleMs)], resErr := false })) with
        resErr := (doSetChannel channel (initRegisters
          { s with
            payloadSize := clampPayload s.cfg payloadSize, initDone := true, channelCache := s.cfg.chSentinel, ce := false
            trace := s.trace ++ [.ce false, .wait (.ms s.cfg.tSettleMs)], resErr := false })).resErr } := by
  simp [doInitialize, doCeSet_eq, doDelayMs_eq]

/-- R95 c: the clamp, once the parameters are as required. -/
theorem clampPayload_toNat {c : Config} (h : c.maxPayload.toNat < 64) (p : Byte) :
    (clampPayload c p).toNat = min p.toNat c.maxPayload.toNat := by
  unfold clampPayload
  simp only [BitVec.le_def]
  split <;> simp only [BitVec.toNat_setWidth] <;> omega

end Sys2Proof.Machine
end

