-- ==== Sys2Proof/Laws/Frames.lean ====
section
/-! SUPPORT. What a transaction, a read of BUF and the frames of the sequences leave alone, field by field
(spec/40_bus_transaction.md R121, spec/10_state.md R26, spec/45_device_configuration.md R170). -/

namespace Sys2Proof.Machine

variable (c a v : Byte) (as : List Byte) (tx : List Byte) (d : Dir) (s : State) (i n : Nat)

@[simp] theorem transact_ce : (transact c tx d s).2.2.ce = s.ce := by
  obtain ⟨st, rx, sl, -, h⟩ := transact_next c tx d s
  rw [h]; rfl
@[simp] theorem transact_buf : (transact c tx d s).2.2.buf = s.buf := by
  obtain ⟨st, rx, sl, -, h⟩ := transact_next c tx d s
  rw [h]; rfl
@[simp] theorem transact_resData : (transact c tx d s).2.2.resData = s.resData := by
  obtain ⟨st, rx, sl, -, h⟩ := transact_next c tx d s
  rw [h]; rfl
@[simp] theorem transact_resFlag : (transact c tx d s).2.2.resFlag = s.resFlag := by
  obtain ⟨st, rx, sl, -, h⟩ := transact_next c tx d s
  rw [h]; rfl
@[simp] theorem transact_resCode : (transact c tx d s).2.2.resCode = s.resCode := by
  obtain ⟨st, rx, sl, -, h⟩ := transact_next c tx d s
  rw [h]; rfl
@[simp] theorem transact_resErr : (transact c tx d s).2.2.resErr = s.resErr := by
  obtain ⟨st, rx, sl, -, h⟩ := transact_next c tx d s
  rw [h]; rfl
@[simp] theorem transact_payloadSize : (transact c tx d s).2.2.payloadSize = s.payloadSize := by
  obtain ⟨st, rx, sl, -, h⟩ := transact_next c tx d s
  rw [h]; rfl
@[simp] theorem transact_channelCache : (transact c tx d s).2.2.channelCache = s.channelCache := by
  obtain ⟨st, rx, sl, -, h⟩ := transact_next c tx d s
  rw [h]; rfl
@[simp] theorem transact_dataRate : (transact c tx d s).2.2.dataRate = s.dataRate := by
  obtain ⟨st, rx, sl, -, h⟩ := transact_next c tx d s
  rw [h]; rfl
@[simp] theorem transact_txPower : (transact c tx d s).2.2.txPower = s.txPower := by
  obtain ⟨st, rx, sl, -, h⟩ := transact_next c tx d s
  rw [h]; rfl
@[simp] theorem transact_initDone : (transact c tx d s).2.2.initDone = s.initDone := by
  obtain ⟨st, rx, sl, -, h⟩ := transact_next c tx d s
  rw [h]; rfl
@[simp] theorem transact_busy : (transact c tx d s).2.2.busy = s.busy := by
  obtain ⟨st, rx, sl, -, h⟩ := transact_next c tx d s
  rw [h]; rfl
@[simp] theorem transact_cfg : (transact c tx d s).2.2.cfg = s.cfg := by
  obtain ⟨st, rx, sl, -, h⟩ := transact_next c tx d s
  rw [h]; rfl
@[simp] theorem transact_inputs : (transact c tx d s).2.2.inputs = s.inputs := by
  obtain ⟨st, rx, sl, -, h⟩ := transact_next c tx d s
  rw [h]; rfl
@[simp] theorem transact_draws : (transact c tx d s).2.2.draws = s.draws := by
  obtain ⟨st, rx, sl, -, h⟩ := transact_next c tx d s
  rw [h]; rfl
@[simp] theorem transact_csn : (transact c tx d s).2.2.csn = true := by
  obtain ⟨st, rx, sl, hl, h⟩ := transact_next c tx d s
  rw [h]; rfl
@[simp] theorem transact_phase : (transact c tx d s).2.2.phase = .idle := by
  obtain ⟨st, rx, sl, hl, h⟩ := transact_next c tx d s
  rw [h]; rfl
@[simp] theorem transact_idx : (transact c tx d s).2.2.idx = 0 := by
  obtain ⟨st, rx, sl, hl, h⟩ := transact_next c tx d s
  rw [h]; rfl
@[simp] theorem transact_statusValid : (transact c tx d s).2.2.statusValid = true := by
  obtain ⟨st, rx, sl, hl, h⟩ := transact_next c tx d s
  rw [h]; rfl
@[simp] theorem transact_statusLatch : (transact c tx d s).2.2.statusLatch = (transact c tx d s).1 := by
  obtain ⟨st, rx, sl, hl, h⟩ := transact_next c tx d s
  rw [h]; rfl
@[simp] theorem transact_cmdb : (transact c tx d s).2.2.cmdb = c := by
  obtain ⟨st, rx, sl, hl, h⟩ := transact_next c tx d s
  rw [h]; rfl
@[simp] theorem transact_dir : (transact c tx d s).2.2.dir = d := by
  obtain ⟨st, rx, sl, hl, h⟩ := transact_next c tx d s
  rw [h]; rfl
@[simp] theorem transact_len : (transact c tx d s).2.2.len = tx.length := by
  obtain ⟨st, rx, sl, hl, h⟩ := transact_next c tx d s
  rw [h]; simp [hl]
@[simp] theorem transact_received_length : (transact c tx d s).2.1.length = tx.length := by
  obtain ⟨st, rx, sl, hl, h⟩ := transact_next c tx d s
  rw [h]; exact hl

@[simp] theorem readBuf_csn : (readBuf i s).2.csn = s.csn := by
  obtain ⟨b, -, h⟩ := readBuf_next i s
  rw [h]
@[simp] theorem readBuf_ce : (readBuf i s).2.ce = s.ce := by
  obtain ⟨b, -, h⟩ := readBuf_next i s
  rw [h]
@[simp] theorem readBuf_phase : (readBuf i s).2.phase = s.phase := by
  obtain ⟨b, -, h⟩ := readBuf_next i s
  rw [h]
@[simp] theorem readBuf_idx : (readBuf i s).2.idx = s.idx := by
  obtain ⟨b, -, h⟩ := readBuf_next i s
  rw [h]
@[simp] theorem readBuf_cmdb : (readBuf i s).2.cmdb = s.cmdb := by
  obtain ⟨b, -, h⟩ := readBuf_next i s
  rw [h]
@[simp] theorem readBuf_len : (readBuf i s).2.len = s.len := by
  obtain ⟨b, -, h⟩ := readBuf_next i s
  rw [h]
@[simp] theorem readBuf_dir : (readBuf i s).2.dir = s.dir := by
  obtain ⟨b, -, h⟩ := readBuf_next i s
  rw [h]
@[simp] theorem readBuf_buf : (readBuf i s).2.buf = s.buf := by
  obtain ⟨b, -, h⟩ := readBuf_next i s
  rw [h]
@[simp] theorem readBuf_statusLatch : (readBuf i s).2.statusLatch = s.statusLatch := by
  obtain ⟨b, -, h⟩ := readBuf_next i s
  rw [h]
@[simp] theorem readBuf_statusValid : (readBuf i s).2.statusValid = s.statusValid := by
  obtain ⟨b, -, h⟩ := readBuf_next i s
  rw [h]
@[simp] theorem readBuf_resData : (readBuf i s).2.resData = s.resData := by
  obtain ⟨b, -, h⟩ := readBuf_next i s
  rw [h]
@[simp] theorem readBuf_resFlag : (readBuf i s).2.resFlag = s.resFlag := by
  obtain ⟨b, -, h⟩ := readBuf_next i s
  rw [h]
@[simp] theorem readBuf_resCode : (readBuf i s).2.resCode = s.resCode := by
  obtain ⟨b, -, h⟩ := readBuf_next i s
  rw [h]
@[simp] theorem readBuf_resErr : (readBuf i s).2.resErr = s.resErr := by
  obtain ⟨b, -, h⟩ := readBuf_next i s
  rw [h]
@[simp] theorem readBuf_payloadSize : (readBuf i s).2.payloadSize = s.payloadSize := by
  obtain ⟨b, -, h⟩ := readBuf_next i s
  rw [h]
@[simp] theorem readBuf_channelCache : (readBuf i s).2.channelCache = s.channelCache := by
  obtain ⟨b, -, h⟩ := readBuf_next i s
  rw [h]
@[simp] theorem readBuf_dataRate : (readBuf i s).2.dataRate = s.dataRate := by
  obtain ⟨b, -, h⟩ := readBuf_next i s
  rw [h]
@[simp] theorem readBuf_txPower : (readBuf i s).2.txPower = s.txPower := by
  obtain ⟨b, -, h⟩ := readBuf_next i s
  rw [h]
@[simp] theorem readBuf_initDone : (readBuf i s).2.initDone = s.initDone := by
  obtain ⟨b, -, h⟩ := readBuf_next i s
  rw [h]
@[simp] theorem readBuf_busy : (readBuf i s).2.busy = s.busy := by
  obtain ⟨b, -, h⟩ := readBuf_next i s
  rw [h]
@[simp] theorem readBuf_cfg : (readBuf i s).2.cfg = s.cfg := by
  obtain ⟨b, -, h⟩ := readBuf_next i s
  rw [h]
@[simp] theorem readBuf_slave : (readBuf i s).2.slave = s.slave := by
  obtain ⟨b, -, h⟩ := readBuf_next i s
  rw [h]
@[simp] theorem readBuf_inputs : (readBuf i s).2.inputs = s.inputs := by
  obtain ⟨b, -, h⟩ := readBuf_next i s
  rw [h]
@[simp] theorem readBuf_trace : (readBuf i s).2.trace = s.trace := by
  obtain ⟨b, -, h⟩ := readBuf_next i s
  rw [h]

@[simp] theorem readBufFrom_csn : (readBufFrom i n s).2.csn = s.csn := by
  obtain ⟨tx, -, -, h⟩ := readBufFrom_next_from i n s
  rw [h]
@[simp] theorem readBufFrom_ce : (readBufFrom i n s).2.ce = s.ce := by
  obtain ⟨tx, -, -, h⟩ := readBufFrom_next_from i n s
  rw [h]
@[simp] theorem readBufFrom_phase : (readBufFrom i n s).2.phase = s.phase := by
  obtain ⟨tx, -, -, h⟩ := readBufFrom_next_from i n s
  rw [h]
@[simp] theorem readBufFrom_idx : (readBufFrom i n s).2.idx = s.idx := by
  obtain ⟨tx, -, -, h⟩ := readBufFrom_next_from i n s
  rw [h]
@[simp] theorem readBufFrom_cmdb : (readBufFrom i n s).2.cmdb = s.cmdb := by
  obtain ⟨tx, -, -, h⟩ := readBufFrom_next_from i n s
  rw [h]
@[simp] theorem readBufFrom_len : (readBufFrom i n s).2.len = s.len := by
  obtain ⟨tx, -, -, h⟩ := readBufFrom_next_from i n s
  rw [h]
@[simp] theorem readBufFrom_dir : (readBufFrom i n s).2.dir = s.dir := by
  obtain ⟨tx, -, -, h⟩ := readBufFrom_next_from i n s
  rw [h]
@[simp] theorem readBufFrom_buf : (readBufFrom i n s).2.buf = s.buf := by
  obtain ⟨tx, -, -, h⟩ := readBufFrom_next_from i n s
  rw [h]
@[simp] theorem readBufFrom_statusLatch : (readBufFrom i n s).2.statusLatch = s.statusLatch := by
  obtain ⟨tx, -, -, h⟩ := readBufFrom_next_from i n s
  rw [h]
@[simp] theorem readBufFrom_statusValid : (readBufFrom i n s).2.statusValid = s.statusValid := by
  obtain ⟨tx, -, -, h⟩ := readBufFrom_next_from i n s
  rw [h]
@[simp] theorem readBufFrom_resData : (readBufFrom i n s).2.resData = s.resData := by
  obtain ⟨tx, -, -, h⟩ := readBufFrom_next_from i n s
  rw [h]
@[simp] theorem readBufFrom_resFlag : (readBufFrom i n s).2.resFlag = s.resFlag := by
  obtain ⟨tx, -, -, h⟩ := readBufFrom_next_from i n s
  rw [h]
@[simp] theorem readBufFrom_resCode : (readBufFrom i n s).2.resCode = s.resCode := by
  obtain ⟨tx, -, -, h⟩ := readBufFrom_next_from i n s
  rw [h]
@[simp] theorem readBufFrom_resErr : (readBufFrom i n s).2.resErr = s.resErr := by
  obtain ⟨tx, -, -, h⟩ := readBufFrom_next_from i n s
  rw [h]
@[simp] theorem readBufFrom_payloadSize : (readBufFrom i n s).2.payloadSize = s.payloadSize := by
  obtain ⟨tx, -, -, h⟩ := readBufFrom_next_from i n s
  rw [h]
@[simp] theorem readBufFrom_channelCache : (readBufFrom i n s).2.channelCache = s.channelCache := by
  obtain ⟨tx, -, -, h⟩ := readBufFrom_next_from i n s
  rw [h]
@[simp] theorem readBufFrom_dataRate : (readBufFrom i n s).2.dataRate = s.dataRate := by
  obtain ⟨tx, -, -, h⟩ := readBufFrom_next_from i n s
  rw [h]
@[simp] theorem readBufFrom_txPower : (readBufFrom i n s).2.txPower = s.txPower := by
  obtain ⟨tx, -, -, h⟩ := readBufFrom_next_from i n s
  rw [h]
@[simp] theorem readBufFrom_initDone : (readBufFrom i n s).2.initDone = s.initDone := by
  obtain ⟨tx, -, -, h⟩ := readBufFrom_next_from i n s
  rw [h]
@[simp] theorem readBufFrom_busy : (readBufFrom i n s).2.busy = s.busy := by
  obtain ⟨tx, -, -, h⟩ := readBufFrom_next_from i n s
  rw [h]
@[simp] theorem readBufFrom_cfg : (readBufFrom i n s).2.cfg = s.cfg := by
  obtain ⟨tx, -, -, h⟩ := readBufFrom_next_from i n s
  rw [h]
@[simp] theorem readBufFrom_slave : (readBufFrom i n s).2.slave = s.slave := by
  obtain ⟨tx, -, -, h⟩ := readBufFrom_next_from i n s
  rw [h]
@[simp] theorem readBufFrom_inputs : (readBufFrom i n s).2.inputs = s.inputs := by
  obtain ⟨tx, -, -, h⟩ := readBufFrom_next_from i n s
  rw [h]
@[simp] theorem readBufFrom_trace : (readBufFrom i n s).2.trace = s.trace := by
  obtain ⟨tx, -, -, h⟩ := readBufFrom_next_from i n s
  rw [h]
@[simp] theorem readBufFrom_length : (readBufFrom i n s).1.length = n := by
  obtain ⟨tx, hl, -, h⟩ := readBufFrom_next_from i n s
  rw [h]; exact hl

@[simp] theorem memWrite_ce : (memWrite a tx s).ce = s.ce := transact_ce (writeCommand s.cfg a) tx .send s
@[simp] theorem memWrite_buf : (memWrite a tx s).buf = s.buf := transact_buf (writeCommand s.cfg a) tx .send s
@[simp] theorem memWrite_resData : (memWrite a tx s).resData = s.resData := transact_resData (writeCommand s.cfg a) tx .send s
@[simp] theorem memWrite_resFlag : (memWrite a tx s).resFlag = s.resFlag := transact_resFlag (writeCommand s.cfg a) tx .send s
@[simp] theorem memWrite_resCode : (memWrite a tx s).resCode = s.resCode := transact_resCode (writeCommand s.cfg a) tx .send s
@[simp] theorem memWrite_resErr : (memWrite a tx s).resErr = s.resErr := transact_resErr (writeCommand s.cfg a) tx .send s
@[simp] theorem memWrite_payloadSize : (memWrite a tx s).payloadSize = s.payloadSize := transact_payloadSize (writeCommand s.cfg a) tx .send s
@[simp] theorem memWrite_channelCache : (memWrite a tx s).channelCache = s.channelCache := transact_channelCache (writeCommand s.cfg a) tx .send s
@[simp] theorem memWrite_dataRate : (memWrite a tx s).dataRate = s.dataRate := transact_dataRate (writeCommand s.cfg a) tx .send s
@[simp] theorem memWrite_txPower : (memWrite a tx s).txPower = s.txPower := transact_txPower (writeCommand s.cfg a) tx .send s
@[simp] theorem memWrite_initDone : (memWrite a tx s).initDone = s.initDone := transact_initDone (writeCommand s.cfg a) tx .send s
@[simp] theorem memWrite_busy : (memWrite a tx s).busy = s.busy := transact_busy (writeCommand s.cfg a) tx .send s
@[simp] theorem memWrite_cfg : (memWrite a tx s).cfg = s.cfg := transact_cfg (writeCommand s.cfg a) tx .send s
@[simp] theorem memWrite_inputs : (memWrite a tx s).inputs = s.inputs := transact_inputs (writeCommand s.cfg a) tx .send s
@[simp] theorem memWrite_draws : (memWrite a tx s).draws = s.draws := transact_draws (writeCommand s.cfg a) tx .send s
@[simp] theorem memWrite_csn : (memWrite a tx s).csn = true := transact_csn (writeCommand s.cfg a) tx .send s
@[simp] theorem memWrite_phase : (memWrite a tx s).phase = .idle := transact_phase (writeCommand s.cfg a) tx .send s
@[simp] theorem memWrite_idx : (memWrite a tx s).idx = 0 := transact_idx (writeCommand s.cfg a) tx .send s
@[simp] theorem memWrite_statusValid : (memWrite a tx s).statusValid = true := transact_statusValid (writeCommand s.cfg a) tx .send s

@[simp] theorem memRead_ce : (memRead a n s).2.ce = s.ce := transact_ce (readCommand s.cfg a) (List.replicate n s.cfg.dummyByte) .recv s
@[simp] theorem memRead_buf : (memRead a n s).2.buf = s.buf := transact_buf (readCommand s.cfg a) (List.replicate n s.cfg.dummyByte) .recv s
@[simp] theorem memRead_resData : (memRead a n s).2.resData = s.resData := transact_resData (readCommand s.cfg a) (List.replicate n s.cfg.dummyByte) .recv s
@[simp] theorem memRead_resFlag : (memRead a n s).2.resFlag = s.resFlag := transact_resFlag (readCommand s.cfg a) (List.replicate n s.cfg.dummyByte) .recv s
@[simp] theorem memRead_resCode : (memRead a n s).2.resCode = s.resCode := transact_resCode (readCommand s.cfg a) (List.replicate n s.cfg.dummyByte) .recv s
@[simp] theorem memRead_resErr : (memRead a n s).2.resErr = s.resErr := transact_resErr (readCommand s.cfg a) (List.replicate n s.cfg.dummyByte) .recv s
@[simp] theorem memRead_payloadSize : (memRead a n s).2.payloadSize = s.payloadSize := transact_payloadSize (readCommand s.cfg a) (List.replicate n s.cfg.dummyByte) .recv s
@[simp] theorem memRead_channelCache : (memRead a n s).2.channelCache = s.channelCache := transact_channelCache (readCommand s.cfg a) (List.replicate n s.cfg.dummyByte) .recv s
@[simp] theorem memRead_dataRate : (memRead a n s).2.dataRate = s.dataRate := transact_dataRate (readCommand s.cfg a) (List.replicate n s.cfg.dummyByte) .recv s
@[simp] theorem memRead_txPower : (memRead a n s).2.txPower = s.txPower := transact_txPower (readCommand s.cfg a) (List.replicate n s.cfg.dummyByte) .recv s
@[simp] theorem memRead_initDone : (memRead a n s).2.initDone = s.initDone := transact_initDone (readCommand s.cfg a) (List.replicate n s.cfg.dummyByte) .recv s
@[simp] theorem memRead_busy : (memRead a n s).2.busy = s.busy := transact_busy (readCommand s.cfg a) (List.replicate n s.cfg.dummyByte) .recv s
@[simp] theorem memRead_cfg : (memRead a n s).2.cfg = s.cfg := transact_cfg (readCommand s.cfg a) (List.replicate n s.cfg.dummyByte) .recv s
@[simp] theorem memRead_inputs : (memRead a n s).2.inputs = s.inputs := transact_inputs (readCommand s.cfg a) (List.replicate n s.cfg.dummyByte) .recv s
@[simp] theorem memRead_draws : (memRead a n s).2.draws = s.draws := transact_draws (readCommand s.cfg a) (List.replicate n s.cfg.dummyByte) .recv s
@[simp] theorem memRead_csn : (memRead a n s).2.csn = true := transact_csn (readCommand s.cfg a) (List.replicate n s.cfg.dummyByte) .recv s
@[simp] theorem memRead_phase : (memRead a n s).2.phase = .idle := transact_phase (readCommand s.cfg a) (List.replicate n s.cfg.dummyByte) .recv s
@[simp] theorem memRead_idx : (memRead a n s).2.idx = 0 := transact_idx (readCommand s.cfg a) (List.replicate n s.cfg.dummyByte) .recv s
@[simp] theorem memRead_statusValid : (memRead a n s).2.statusValid = true := transact_statusValid (readCommand s.cfg a) (List.replicate n s.cfg.dummyByte) .recv s

@[simp] theorem memReadByte_ce : (memReadByte a s).2.ce = s.ce := transact_ce (readCommand s.cfg a) (List.replicate 1 s.cfg.dummyByte) .recv s
@[simp] theorem memReadByte_buf : (memReadByte a s).2.buf = s.buf := transact_buf (readCommand s.cfg a) (List.replicate 1 s.cfg.dummyByte) .recv s
@[simp] theorem memReadByte_resData : (memReadByte a s).2.resData = s.resData := transact_resData (readCommand s.cfg a) (List.replicate 1 s.cfg.dummyByte) .recv s
@[simp] theorem memReadByte_resFlag : (memReadByte a s).2.resFlag = s.resFlag := transact_resFlag (readCommand s.cfg a) (List.replicate 1 s.cfg.dummyByte) .recv s
@[simp] theorem memReadByte_resCode : (memReadByte a s).2.resCode = s.resCode := transact_resCode (readCommand s.cfg a) (List.replicate 1 s.cfg.dummyByte) .recv s
@[simp] theorem memReadByte_resErr : (memReadByte a s).2.resErr = s.resErr := transact_resErr (readCommand s.cfg a) (List.replicate 1 s.cfg.dummyByte) .recv s
@[simp] theorem memReadByte_payloadSize : (memReadByte a s).2.payloadSize = s.payloadSize := transact_payloadSize (readCommand s.cfg a) (List.replicate 1 s.cfg.dummyByte) .recv s
@[simp] theorem memReadByte_channelCache : (memReadByte a s).2.channelCache = s.channelCache := transact_channelCache (readCommand s.cfg a) (List.replicate 1 s.cfg.dummyByte) .recv s
@[simp] theorem memReadByte_dataRate : (memReadByte a s).2.dataRate = s.dataRate := transact_dataRate (readCommand s.cfg a) (List.replicate 1 s.cfg.dummyByte) .recv s
@[simp] theorem memReadByte_txPower : (memReadByte a s).2.txPower = s.txPower := transact_txPower (readCommand s.cfg a) (List.replicate 1 s.cfg.dummyByte) .recv s
@[simp] theorem memReadByte_initDone : (memReadByte a s).2.initDone = s.initDone := transact_initDone (readCommand s.cfg a) (List.replicate 1 s.cfg.dummyByte) .recv s
@[simp] theorem memReadByte_busy : (memReadByte a s).2.busy = s.busy := transact_busy (readCommand s.cfg a) (List.replicate 1 s.cfg.dummyByte) .recv s
@[simp] theorem memReadByte_cfg : (memReadByte a s).2.cfg = s.cfg := transact_cfg (readCommand s.cfg a) (List.replicate 1 s.cfg.dummyByte) .recv s
@[simp] theorem memReadByte_inputs : (memReadByte a s).2.inputs = s.inputs := transact_inputs (readCommand s.cfg a) (List.replicate 1 s.cfg.dummyByte) .recv s
@[simp] theorem memReadByte_draws : (memReadByte a s).2.draws = s.draws := transact_draws (readCommand s.cfg a) (List.replicate 1 s.cfg.dummyByte) .recv s
@[simp] theorem memReadByte_csn : (memReadByte a s).2.csn = true := transact_csn (readCommand s.cfg a) (List.replicate 1 s.cfg.dummyByte) .recv s
@[simp] theorem memReadByte_phase : (memReadByte a s).2.phase = .idle := transact_phase (readCommand s.cfg a) (List.replicate 1 s.cfg.dummyByte) .recv s
@[simp] theorem memReadByte_idx : (memReadByte a s).2.idx = 0 := transact_idx (readCommand s.cfg a) (List.replicate 1 s.cfg.dummyByte) .recv s
@[simp] theorem memReadByte_statusValid : (memReadByte a s).2.statusValid = true := transact_statusValid (readCommand s.cfg a) (List.replicate 1 s.cfg.dummyByte) .recv s

@[simp] theorem commandOnly_ce : (commandOnly c s).2.ce = s.ce := transact_ce c [] .send s
@[simp] theorem commandOnly_buf : (commandOnly c s).2.buf = s.buf := transact_buf c [] .send s
@[simp] theorem commandOnly_resData : (commandOnly c s).2.resData = s.resData := transact_resData c [] .send s
@[simp] theorem commandOnly_resFlag : (commandOnly c s).2.resFlag = s.resFlag := transact_resFlag c [] .send s
@[simp] theorem commandOnly_resCode : (commandOnly c s).2.resCode = s.resCode := transact_resCode c [] .send s
@[simp] theorem commandOnly_resErr : (commandOnly c s).2.resErr = s.resErr := transact_resErr c [] .send s
@[simp] theorem commandOnly_payloadSize : (commandOnly c s).2.payloadSize = s.payloadSize := transact_payloadSize c [] .send s
@[simp] theorem commandOnly_channelCache : (commandOnly c s).2.channelCache = s.channelCache := transact_channelCache c [] .send s
@[simp] theorem commandOnly_dataRate : (commandOnly c s).2.dataRate = s.dataRate := transact_dataRate c [] .send s
@[simp] theorem commandOnly_txPower : (commandOnly c s).2.txPower = s.txPower := transact_txPower c [] .send s
@[simp] theorem commandOnly_initDone : (commandOnly c s).2.initDone = s.initDone := transact_initDone c [] .send s
@[simp] theorem commandOnly_busy : (commandOnly c s).2.busy = s.busy := transact_busy c [] .send s
@[simp] theorem commandOnly_cfg : (commandOnly c s).2.cfg = s.cfg := transact_cfg c [] .send s
@[simp] theorem commandOnly_inputs : (commandOnly c s).2.inputs = s.inputs := transact_inputs c [] .send s
@[simp] theorem commandOnly_draws : (commandOnly c s).2.draws = s.draws := transact_draws c [] .send s
@[simp] theorem commandOnly_csn : (commandOnly c s).2.csn = true := transact_csn c [] .send s
@[simp] theorem commandOnly_phase : (commandOnly c s).2.phase = .idle := transact_phase c [] .send s
@[simp] theorem commandOnly_idx : (commandOnly c s).2.idx = 0 := transact_idx c [] .send s
@[simp] theorem commandOnly_statusValid : (commandOnly c s).2.statusValid = true := transact_statusValid c [] .send s

@[simp] theorem doWriteReg_ce : (doWriteReg a v s).ce = s.ce := transact_ce (writeCommand s.cfg a) [v] .send s
@[simp] theorem doWriteReg_buf : (doWriteReg a v s).buf = s.buf := transact_buf (writeCommand s.cfg a) [v] .send s
@[simp] theorem doWriteReg_resData : (doWriteReg a v s).resData = s.resData := transact_resData (writeCommand s.cfg a) [v] .send s
@[simp] theorem doWriteReg_resFlag : (doWriteReg a v s).resFlag = s.resFlag := transact_resFlag (writeCommand s.cfg a) [v] .send s
@[simp] theorem doWriteReg_resCode : (doWriteReg a v s).resCode = s.resCode := transact_resCode (writeCommand s.cfg a) [v] .send s
@[simp] theorem doWriteReg_resErr : (doWriteReg a v s).resErr = false := rfl
@[simp] theorem doWriteReg_payloadSize : (doWriteReg a v s).payloadSize = s.payloadSize := transact_payloadSize (writeCommand s.cfg a) [v] .send s
@[simp] theorem doWriteReg_channelCache : (doWriteReg a v s).channelCache = s.channelCache := transact_channelCache (writeCommand s.cfg a) [v] .send s
@[simp] theorem doWriteReg_dataRate : (doWriteReg a v s).dataRate = s.dataRate := transact_dataRate (writeCommand s.cfg a) [v] .send s
@[simp] theorem doWriteReg_txPower : (doWriteReg a v s).txPower = s.txPower := transact_txPower (writeCommand s.cfg a) [v] .send s
@[simp] theorem doWriteReg_initDone : (doWriteReg a v s).initDone = s.initDone := transact_initDone (writeCommand s.cfg a) [v] .send s
@[simp] theorem doWriteReg_busy : (doWriteReg a v s).busy = s.busy := transact_busy (writeCommand s.cfg a) [v] .send s
@[simp] theorem doWriteReg_cfg : (doWriteReg a v s).cfg = s.cfg := transact_cfg (writeCommand s.cfg a) [v] .send s
@[simp] theorem doWriteReg_inputs : (doWriteReg a v s).inputs = s.inputs := transact_inputs (writeCommand s.cfg a) [v] .send s
@[simp] theorem doWriteReg_draws : (doWriteReg a v s).draws = s.draws := transact_draws (writeCommand s.cfg a) [v] .send s
@[simp] theorem doWriteReg_csn : (doWriteReg a v s).csn = true := transact_csn (writeCommand s.cfg a) [v] .send s
@[simp] theorem doWriteReg_phase : (doWriteReg a v s).phase = .idle := transact_phase (writeCommand s.cfg a) [v] .send s
@[simp] theorem doWriteReg_idx : (doWriteReg a v s).idx = 0 := transact_idx (writeCommand s.cfg a) [v] .send s
@[simp] theorem doWriteReg_statusValid : (doWriteReg a v s).statusValid = true := transact_statusValid (writeCommand s.cfg a) [v] .send s

@[simp] theorem doFlushTx_ce : (doFlushTx s).ce = s.ce := transact_ce s.cfg.opcFlushTx [] .send s
@[simp] theorem doFlushTx_buf : (doFlushTx s).buf = s.buf := transact_buf s.cfg.opcFlushTx [] .send s
@[simp] theorem doFlushTx_resData : (doFlushTx s).resData = s.resData := transact_resData s.cfg.opcFlushTx [] .send s
@[simp] theorem doFlushTx_resFlag : (doFlushTx s).resFlag = s.resFlag := transact_resFlag s.cfg.opcFlushTx [] .send s
@[simp] theorem doFlushTx_resCode : (doFlushTx s).resCode = s.resCode := transact_resCode s.cfg.opcFlushTx [] .send s
@[simp] theorem doFlushTx_resErr : (doFlushTx s).resErr = false := rfl
@[simp] theorem doFlushTx_payloadSize : (doFlushTx s).payloadSize = s.payloadSize := transact_payloadSize s.cfg.opcFlushTx [] .send s
@[simp] theorem doFlushTx_channelCache : (doFlushTx s).channelCache = s.channelCache := transact_channelCache s.cfg.opcFlushTx [] .send s
@[simp] theorem doFlushTx_dataRate : (doFlushTx s).dataRate = s.dataRate := transact_dataRate s.cfg.opcFlushTx [] .send s
@[simp] theorem doFlushTx_txPower : (doFlushTx s).txPower = s.txPower := transact_txPower s.cfg.opcFlushTx [] .send s
@[simp] theorem doFlushTx_initDone : (doFlushTx s).initDone = s.initDone := transact_initDone s.cfg.opcFlushTx [] .send s
@[simp] theorem doFlushTx_busy : (doFlushTx s).busy = s.busy := transact_busy s.cfg.opcFlushTx [] .send s
@[simp] theorem doFlushTx_cfg : (doFlushTx s).cfg = s.cfg := transact_cfg s.cfg.opcFlushTx [] .send s
@[simp] theorem doFlushTx_inputs : (doFlushTx s).inputs = s.inputs := transact_inputs s.cfg.opcFlushTx [] .send s
@[simp] theorem doFlushTx_draws : (doFlushTx s).draws = s.draws := transact_draws s.cfg.opcFlushTx [] .send s
@[simp] theorem doFlushTx_csn : (doFlushTx s).csn = true := transact_csn s.cfg.opcFlushTx [] .send s
@[simp] theorem doFlushTx_phase : (doFlushTx s).phase = .idle := transact_phase s.cfg.opcFlushTx [] .send s
@[simp] theorem doFlushTx_idx : (doFlushTx s).idx = 0 := transact_idx s.cfg.opcFlushTx [] .send s
@[simp] theorem doFlushTx_statusValid : (doFlushTx s).statusValid = true := transact_statusValid s.cfg.opcFlushTx [] .send s

@[simp] theorem doFlushRx_ce : (doFlushRx s).ce = s.ce := transact_ce s.cfg.opcFlushRx [] .send s
@[simp] theorem doFlushRx_buf : (doFlushRx s).buf = s.buf := transact_buf s.cfg.opcFlushRx [] .send s
@[simp] theorem doFlushRx_resData : (doFlushRx s).resData = s.resData := transact_resData s.cfg.opcFlushRx [] .send s
@[simp] theorem doFlushRx_resFlag : (doFlushRx s).resFlag = s.resFlag := transact_resFlag s.cfg.opcFlushRx [] .send s
@[simp] theorem doFlushRx_resCode : (doFlushRx s).resCode = s.resCode := transact_resCode s.cfg.opcFlushRx [] .send s
@[simp] theorem doFlushRx_resErr : (doFlushRx s).resErr = false := rfl
@[simp] theorem doFlushRx_payloadSize : (doFlushRx s).payloadSize = s.payloadSize := transact_payloadSize s.cfg.opcFlushRx [] .send s
@[simp] theorem doFlushRx_channelCache : (doFlushRx s).channelCache = s.channelCache := transact_channelCache s.cfg.opcFlushRx [] .send s
@[simp] theorem doFlushRx_dataRate : (doFlushRx s).dataRate = s.dataRate := transact_dataRate s.cfg.opcFlushRx [] .send s
@[simp] theorem doFlushRx_txPower : (doFlushRx s).txPower = s.txPower := transact_txPower s.cfg.opcFlushRx [] .send s
@[simp] theorem doFlushRx_initDone : (doFlushRx s).initDone = s.initDone := transact_initDone s.cfg.opcFlushRx [] .send s
@[simp] theorem doFlushRx_busy : (doFlushRx s).busy = s.busy := transact_busy s.cfg.opcFlushRx [] .send s
@[simp] theorem doFlushRx_cfg : (doFlushRx s).cfg = s.cfg := transact_cfg s.cfg.opcFlushRx [] .send s
@[simp] theorem doFlushRx_inputs : (doFlushRx s).inputs = s.inputs := transact_inputs s.cfg.opcFlushRx [] .send s
@[simp] theorem doFlushRx_draws : (doFlushRx s).draws = s.draws := transact_draws s.cfg.opcFlushRx [] .send s
@[simp] theorem doFlushRx_csn : (doFlushRx s).csn = true := transact_csn s.cfg.opcFlushRx [] .send s
@[simp] theorem doFlushRx_phase : (doFlushRx s).phase = .idle := transact_phase s.cfg.opcFlushRx [] .send s
@[simp] theorem doFlushRx_idx : (doFlushRx s).idx = 0 := transact_idx s.cfg.opcFlushRx [] .send s
@[simp] theorem doFlushRx_statusValid : (doFlushRx s).statusValid = true := transact_statusValid s.cfg.opcFlushRx [] .send s

@[simp] theorem doPowerUpTx_ce : (doPowerUpTx s).ce = s.ce := transact_ce (writeCommand s.cfg s.cfg.regConfig) [s.cfg.cfgTx] .send s
@[simp] theorem doPowerUpTx_buf : (doPowerUpTx s).buf = s.buf := transact_buf (writeCommand s.cfg s.cfg.regConfig) [s.cfg.cfgTx] .send s
@[simp] theorem doPowerUpTx_resData : (doPowerUpTx s).resData = s.resData := transact_resData (writeCommand s.cfg s.cfg.regConfig) [s.cfg.cfgTx] .send s
@[simp] theorem doPowerUpTx_resFlag : (doPowerUpTx s).resFlag = s.resFlag := transact_resFlag (writeCommand s.cfg s.cfg.regConfig) [s.cfg.cfgTx] .send s
@[simp] theorem doPowerUpTx_resCode : (doPowerUpTx s).resCode = s.resCode := transact_resCode (writeCommand s.cfg s.cfg.regConfig) [s.cfg.cfgTx] .send s
@[simp] theorem doPowerUpTx_resErr : (doPowerUpTx s).resErr = false := rfl
@[simp] theorem doPowerUpTx_payloadSize : (doPowerUpTx s).payloadSize = s.payloadSize := transact_payloadSize (writeCommand s.cfg s.cfg.regConfig) [s.cfg.cfgTx] .send s
@[simp] theorem doPowerUpTx_channelCache : (doPowerUpTx s).channelCache = s.channelCache := transact_channelCache (writeCommand s.cfg s.cfg.regConfig) [s.cfg.cfgTx] .send s
@[simp] theorem doPowerUpTx_dataRate : (doPowerUpTx s).dataRate = s.dataRate := transact_dataRate (writeCommand s.cfg s.cfg.regConfig) [s.cfg.cfgTx] .send s
@[simp] theorem doPowerUpTx_txPower : (doPowerUpTx s).txPower = s.txPower := transact_txPower (writeCommand s.cfg s.cfg.regConfig) [s.cfg.cfgTx] .send s
@[simp] theorem doPowerUpTx_initDone : (doPowerUpTx s).initDone = s.initDone := transact_initDone (writeCommand s.cfg s.cfg.regConfig) [s.cfg.cfgTx] .send s
@[simp] theorem doPowerUpTx_busy : (doPowerUpTx s).busy = s.busy := transact_busy (writeCommand s.cfg s.cfg.regConfig) [s.cfg.cfgTx] .send s
@[simp] theorem doPowerUpTx_cfg : (doPowerUpTx s).cfg = s.cfg := transact_cfg (writeCommand s.cfg s.cfg.regConfig) [s.cfg.cfgTx] .send s
@[simp] theorem doPowerUpTx_inputs : (doPowerUpTx s).inputs = s.inputs := transact_inputs (writeCommand s.cfg s.cfg.regConfig) [s.cfg.cfgTx] .send s
@[simp] theorem doPowerUpTx_draws : (doPowerUpTx s).draws = s.draws := transact_draws (writeCommand s.cfg s.cfg.regConfig) [s.cfg.cfgTx] .send s
@[simp] theorem doPowerUpTx_csn : (doPowerUpTx s).csn = true := transact_csn (writeCommand s.cfg s.cfg.regConfig) [s.cfg.cfgTx] .send s
@[simp] theorem doPowerUpTx_phase : (doPowerUpTx s).phase = .idle := transact_phase (writeCommand s.cfg s.cfg.regConfig) [s.cfg.cfgTx] .send s
@[simp] theorem doPowerUpTx_idx : (doPowerUpTx s).idx = 0 := transact_idx (writeCommand s.cfg s.cfg.regConfig) [s.cfg.cfgTx] .send s
@[simp] theorem doPowerUpTx_statusValid : (doPowerUpTx s).statusValid = true := transact_statusValid (writeCommand s.cfg s.cfg.regConfig) [s.cfg.cfgTx] .send s

@[simp] theorem memRead_length : (memRead a n s).1.length = n := by
  obtain ⟨st, rx, sl, hl, h⟩ := memRead_next a n s
  rw [h]; exact hl

@[simp] theorem writePipeWidths_ce : (writePipeWidths as s).ce = s.ce := by
  induction as generalizing s with
  | nil => rfl
  | cons a as ih => simp [writePipeWidths, ih]
@[simp] theorem writePipeWidths_buf : (writePipeWidths as s).buf = s.buf := by
  induction as generalizing s with
  | nil => rfl
  | cons a as ih => simp [writePipeWidths, ih]
@[simp] theorem writePipeWidths_resData : (writePipeWidths as s).resData = s.resData := by
  induction as generalizing s with
  | nil => rfl
  | cons a as ih => simp [writePipeWidths, ih]
@[simp] theorem writePipeWidths_resFlag : (writePipeWidths as s).resFlag = s.resFlag := by
  induction as generalizing s with
  | nil => rfl
  | cons a as ih => simp [writePipeWidths, ih]
@[simp] theorem writePipeWidths_resCode : (writePipeWidths as s).resCode = s.resCode := by
  induction as generalizing s with
  | nil => rfl
  | cons a as ih => simp [writePipeWidths, ih]
@[simp] theorem writePipeWidths_payloadSize : (writePipeWidths as s).payloadSize = s.payloadSize := by
  induction as generalizing s with
  | nil => rfl
  | cons a as ih => simp [writePipeWidths, ih]
@[simp] theorem writePipeWidths_channelCache : (writePipeWidths as s).channelCache = s.channelCache := by
  induction as generalizing s with
  | nil => rfl
  | cons a as ih => simp [writePipeWidths, ih]
@[simp] theorem writePipeWidths_dataRate : (writePipeWidths as s).dataRate = s.dataRate := by
  induction as generalizing s with
  | nil => rfl
  | cons a as ih => simp [writePipeWidths, ih]
@[simp] theorem writePipeWidths_txPower : (writePipeWidths as s).txPower = s.txPower := by
  induction as generalizing s with
  | nil => rfl
  | cons a as ih => simp [writePipeWidths, ih]
@[simp] theorem writePipeWidths_initDone : (writePipeWidths as s).initDone = s.initDone := by
  induction as generalizing s with
  | nil => rfl
  | cons a as ih => simp [writePipeWidths, ih]
@[simp] theorem writePipeWidths_busy : (writePipeWidths as s).busy = s.busy := by
  induction as generalizing s with
  | nil => rfl
  | cons a as ih => simp [writePipeWidths, ih]
@[simp] theorem writePipeWidths_cfg : (writePipeWidths as s).cfg = s.cfg := by
  induction as generalizing s with
  | nil => rfl
  | cons a as ih => simp [writePipeWidths, ih]
@[simp] theorem writePipeWidths_inputs : (writePipeWidths as s).inputs = s.inputs := by
  induction as generalizing s with
  | nil => rfl
  | cons a as ih => simp [writePipeWidths, ih]
@[simp] theorem writePipeWidths_draws : (writePipeWidths as s).draws = s.draws := by
  induction as generalizing s with
  | nil => rfl
  | cons a as ih => simp [writePipeWidths, ih]

@[simp] theorem doSetChannel_ce : (doSetChannel v s).ce = s.ce := by
  unfold doSetChannel; split <;> simp
@[simp] theorem doSetChannel_buf : (doSetChannel v s).buf = s.buf := by
  unfold doSetChannel; split <;> simp
@[simp] theorem doSetChannel_resData : (doSetChannel v s).resData = s.resData := by
  unfold doSetChannel; split <;> simp
@[simp] theorem doSetChannel_resFlag : (doSetChannel v s).resFlag = s.resFlag := by
  unfold doSetChannel; split <;> simp
@[simp] theorem doSetChannel_resCode : (doSetChannel v s).resCode = s.resCode := by
  unfold doSetChannel; split <;> simp
@[simp] theorem doSetChannel_payloadSize : (doSetChannel v s).payloadSize = s.payloadSize := by
  unfold doSetChannel; split <;> simp
@[simp] theorem doSetChannel_dataRate : (doSetChannel v s).dataRate = s.dataRate := by
  unfold doSetChannel; split <;> simp
@[simp] theorem doSetChannel_txPower : (doSetChannel v s).txPower = s.txPower := by
  unfold doSetChannel; split <;> simp
@[simp] theorem doSetChannel_initDone : (doSetChannel v s).initDone = s.initDone := by
  unfold doSetChannel; split <;> simp
@[simp] theorem doSetChannel_busy : (doSetChannel v s).busy = s.busy := by
  unfold doSetChannel; split <;> simp
@[simp] theorem doSetChannel_cfg : (doSetChannel v s).cfg = s.cfg := by
  unfold doSetChannel; split <;> simp
@[simp] theorem doSetChannel_inputs : (doSetChannel v s).inputs = s.inputs := by
  unfold doSetChannel; split <;> simp
@[simp] theorem doSetChannel_draws : (doSetChannel v s).draws = s.draws := by
  unfold doSetChannel; split <;> simp
@[simp] theorem doSetChannel_csn : (doSetChannel v s).csn = true := by
  unfold doSetChannel; split <;> simp
@[simp] theorem doSetChannel_phase : (doSetChannel v s).phase = .idle := by
  unfold doSetChannel; split <;> simp
@[simp] theorem doSetChannel_idx : (doSetChannel v s).idx = 0 := by
  unfold doSetChannel; split <;> simp
@[simp] theorem doSetChannel_statusValid : (doSetChannel v s).statusValid = true := by
  unfold doSetChannel; split <;> simp

@[simp] theorem initRegisters_ce : (initRegisters s).ce = s.ce := by
  simp [initRegisters, doSetRfParameters]
@[simp] theorem initRegisters_buf : (initRegisters s).buf = s.buf := by
  simp [initRegisters, doSetRfParameters]
@[simp] theorem initRegisters_resData : (initRegisters s).resData = s.resData := by
  simp [initRegisters, doSetRfParameters]
@[simp] theorem initRegisters_resFlag : (initRegisters s).resFlag = s.resFlag := by
  simp [initRegisters, doSetRfParameters]
@[simp] theorem initRegisters_resCode : (initRegisters s).resCode = s.resCode := by
  simp [initRegisters, doSetRfParameters]
@[simp] theorem initRegisters_resErr : (initRegisters s).resErr = false := by
  simp [initRegisters, doSetRfParameters]
@[simp] theorem initRegisters_payloadSize : (initRegisters s).payloadSize = s.payloadSize := by
  simp [initRegisters, doSetRfParameters]
@[simp] theorem initRegisters_channelCache : (initRegisters s).channelCache = s.channelCache := by
  simp [initRegisters, doSetRfParameters]
@[simp] theorem initRegisters_dataRate : (initRegisters s).dataRate = s.dataRate := by
  simp [initRegisters, doSetRfParameters]
@[simp] theorem initRegisters_txPower : (initRegisters s).txPower = s.txPower := by
  simp [initRegisters, doSetRfParameters]
@[simp] theorem initRegisters_initDone : (initRegisters s).initDone = s.initDone := by
  simp [initRegisters, doSetRfParameters]
@[simp] theorem initRegisters_busy : (initRegisters s).busy = s.busy := by
  simp [initRegisters, doSetRfParameters]
@[simp] theorem initRegisters_cfg : (initRegisters s).cfg = s.cfg := by
  simp [initRegisters, doSetRfParameters]
@[simp] theorem initRegisters_inputs : (initRegisters s).inputs = s.inputs := by
  simp [initRegisters, doSetRfParameters]
@[simp] theorem initRegisters_draws : (initRegisters s).draws = s.draws := by
  simp [initRegisters, doSetRfParameters]
@[simp] theorem initRegisters_csn : (initRegisters s).csn = true := by
  simp [initRegisters, doSetRfParameters]
@[simp] theorem initRegisters_phase : (initRegisters s).phase = .idle := by
  simp [initRegisters, doSetRfParameters]
@[simp] theorem initRegisters_idx : (initRegisters s).idx = 0 := by
  simp [initRegisters, doSetRfParameters]
@[simp] theorem initRegisters_statusValid : (initRegisters s).statusValid = true := by
  simp [initRegisters, doSetRfParameters]

@[simp] theorem initFinish_ce : (initFinish s).ce = s.ce := by
  simp [initFinish]
@[simp] theorem initFinish_buf : (initFinish s).buf = s.buf := by
  simp [initFinish]
@[simp] theorem initFinish_resData : (initFinish s).resData = s.resData := by
  simp [initFinish]
@[simp] theorem initFinish_resFlag : (initFinish s).resFlag = s.resFlag := by
  simp [initFinish]
@[simp] theorem initFinish_resCode : (initFinish s).resCode = s.resCode := by
  simp [initFinish]
@[simp] theorem initFinish_resErr : (initFinish s).resErr = false := by
  simp [initFinish]
@[simp] theorem initFinish_payloadSize : (initFinish s).payloadSize = s.payloadSize := by
  simp [initFinish]
@[simp] theorem initFinish_channelCache : (initFinish s).channelCache = s.channelCache := by
  simp [initFinish]
@[simp] theorem initFinish_dataRate : (initFinish s).dataRate = s.dataRate := by
  simp [initFinish]
@[simp] theorem initFinish_txPower : (initFinish s).txPower = s.txPower := by
  simp [initFinish]
@[simp] theorem initFinish_initDone : (initFinish s).initDone = s.initDone := by
  simp [initFinish]
@[simp] theorem initFinish_busy : (initFinish s).busy = s.busy := by
  simp [initFinish]
@[simp] theorem initFinish_cfg : (initFinish s).cfg = s.cfg := by
  simp [initFinish]
@[simp] theorem initFinish_inputs : (initFinish s).inputs = s.inputs := by
  simp [initFinish]
@[simp] theorem initFinish_draws : (initFinish s).draws = s.draws := by
  simp [initFinish]
@[simp] theorem initFinish_csn : (initFinish s).csn = true := by
  simp [initFinish]
@[simp] theorem initFinish_phase : (initFinish s).phase = .idle := by
  simp [initFinish]
@[simp] theorem initFinish_idx : (initFinish s).idx = 0 := by
  simp [initFinish]
@[simp] theorem initFinish_statusValid : (initFinish s).statusValid = true := by
  simp [initFinish]

end Sys2Proof.Machine
end

