-- ==== Sys2Proof/Laws/Step.lean ====
section
/-! SUPPORT. What a command, and a step, can do: the inversion lemmas of `exec`, `runCommand` and `step`, cited in every statement about all
commands or all steps. -/

namespace Sys2Proof.Machine

/-- The effect of each command past its refusals. On a reserved operand nothing reaches it. -/
def effect (s : State) : Instr → State
  | .transact c n (some d) => doTransact c n.toNat d s
  | .transact _ _ none => s
  | .getStatus => doGetStatus s
  | .readReg a => doReadReg a s
  | .writeReg a v => doWriteReg a v s
  | .readRegMulti a n => doReadRegMulti a n.toNat s
  | .writeRegMulti a n => doWriteRegMulti a n.toNat s
  | .readBit a k => doReadBit a k.toNat s
  | .writeBit a k v => doWriteBit a k.toNat v s
  | .writeTxPayload => doWriteTxPayload s
  | .readRxPayload => doReadRxPayload s
  | .flushTx => doFlushTx s
  | .flushRx => doFlushRx s
  | .getTxStatus => doGetTxStatus s
  | .isDataReady => doIsDataReady s
  | .getRetxCount => doGetRetxCount s
  | .ceSet l => doCeSet l s
  | .delayMs ms => doDelayMs ms.toNat s
  | .bufWrite i v => doBufWrite i.toNat v s
  | .bufRead i => doBufRead i.toNat s
  | .initController ch p => doInitialize ch p s
  | .setChannel ch => doSetChannel ch s
  | .setAddress own => doSetAddress own s
  | .setRfParameters (some r) p => doSetRfParameters r p s
  | .setRfParameters none _ => s
  | .powerUpTx => doPowerUpTx s
  | .transmit => doTransmit s
  | .powerUpRx => doPowerUpRx s
  | .getPayload => doGetPayload s
  | .powerDown => doPowerDown s

/-- A command that completes has exactly its effect. -/
theorem exec_next {i : Instr} {s t : State} (h : exec i s = .next t) : t = effect s i := by
  cases i with
  | transact c n d =>
    cases d with
    | none => simp [exec, execTransact] at h
    | some d => simp only [exec, execTransact] at h; split at h <;> simp_all [effect]
  | setRfParameters r p =>
    cases r with
    | none => simp only [exec, execSetRfParameters] at h; split at h <;> simp_all
    | some r => simp only [exec, execSetRfParameters] at h; split at h <;> simp_all [effect]
  | readReg | writeReg | readBit | writeBit => 
    simp only [exec, execReadReg, execWriteReg, execReadBit, execWriteBit] at h
    split at h <;> simp_all [effect]
  | readRegMulti | writeRegMulti =>
    simp only [exec, execReadRegMulti, execWriteRegMulti] at h
    split at h <;> first | (split at h <;> simp_all [effect]) | simp_all
  | writeTxPayload | readRxPayload | transmit | getPayload | initController =>
    simp only [exec, execWriteTxPayload, execReadRxPayload, execTransmit, execGetPayload, execInitialize] at h
    split at h <;> first | (split at h <;> simp_all [effect]) | simp_all
  | setChannel | setAddress | powerUpTx | powerUpRx | powerDown | bufWrite | bufRead =>
    simp only [exec, execSetChannel, execSetAddress, execPowerUpTx, execPowerUpRx, execPowerDown, execBufWrite,
      execBufRead] at h
    split at h <;> simp_all [effect]
  | getStatus | flushTx | flushRx | getTxStatus | isDataReady | getRetxCount | ceSet | delayMs =>
    simp only [exec, execGetStatus, execFlushTx, execFlushRx, execGetTxStatus, execIsDataReady, execGetRetxCount,
      execCeSet, execDelayMs, Host.Outcome.next.injEq] at h
    exact h.symm

/-- A word that runs to completion decodes to a command, which completes in the accepted state; then BUSY is 0 (R37). -/
theorem runCommand_next {w : CommandWord} {s t : State} (h : runCommand w s = .next t) :
    ∃ i u, decode w = .ok i ∧ exec i (accept s) = .next u ∧ t = { u with busy := false } := by
  unfold runCommand at h
  cases hd : decode w with
  | error e => simp [hd] at h
  | ok i =>
    simp only [hd] at h
    cases he : exec i (accept s) with
    | next u => exact ⟨i, u, rfl, he, by simp only [he, complete, Host.Outcome.next.injEq] at h; exact h.symm⟩
    | fault f => cases f
    | refused r => simp [he, complete] at h

/-- What a step that goes on can be: nothing happens, or the input at the head is dealt with. -/
theorem step_next {s t : State} (h : step s = .next t) :
    t = s ∨ (∃ rest, s.inputs = .rst :: rest ∧ t = rstInput (dropInput s)) ∨
      (∃ e rest, s.inputs = .radio e :: rest ∧ t = radioEvent e (dropInput s)) ∨
      (∃ w rest, s.inputs = .command w :: rest ∧ s.busy = false ∧ runCommand w s = .next t) ∨
      (∃ w k rest u, s.inputs = .commandThenRst w k :: rest ∧ s.busy = false ∧ runCommand w s = .next u ∧
        t = abandon k s u) := by
  unfold step at h
  split at h
  · exact .inl (Host.Outcome.next.inj h).symm
  · exact .inr (.inl ⟨_, ‹_›, (Host.Outcome.next.inj h).symm⟩)
  · exact .inr (.inr (.inl ⟨_, _, ‹_›, (Host.Outcome.next.inj h).symm⟩))
  · split at h
    · exact .inl (Host.Outcome.next.inj h).symm
    · exact .inr (.inr (.inr (.inl ⟨_, _, ‹_›, Bool.eq_false_iff.mpr ‹_›, h⟩)))
  · split at h
    · exact .inl (Host.Outcome.next.inj h).symm
    · split at h
      · exact .inr (.inr (.inr (.inr ⟨_, _, _, _, ‹_›, Bool.eq_false_iff.mpr ‹_›, ‹_›, (Host.Outcome.next.inj h).symm⟩)))
      · cases h
      · cases h

end Sys2Proof.Machine
end

