-- ==== Sys2Proof/Laws/Buffer.lean ====
section
/-! SUPPORT. What every command does to BUF, said once (spec/10_state.md R26). -/

namespace Sys2Proof.Machine

/-- A command leaves BUF alone, or is BUF_WRITE, or stores received bytes from index 0. -/
theorem effect_buf (s : State) (i : Instr) :
    ((∀ a b, i ≠ .bufWrite a b) ∧ receivedBytes s i = 0 ∧ (effect s i).buf = s.buf) ∨
    (∃ index value, i = .bufWrite index value ∧ (effect s i).buf = s.buf.write index.toNat value) ∨
    ∃ rx : List Byte, (∀ a b, i ≠ .bufWrite a b) ∧ rx.length = receivedBytes s i ∧
      (effect s i).buf = s.buf.writeFrom 0 rx := by
  cases i with
  | transact c n d =>
    rcases d with _ | _ | _ | _
    · exact .inl (by simp [effect, receivedBytes])
    · exact .inl (by simp [effect, doTransact, receivedBytes])
    · exact .inr (.inr ⟨(transact c (List.replicate n.toNat s.cfg.dummyByte) .recv s).2.1, by simp,
        by simp [receivedBytes], by simp [effect, doTransact, storeBuf]⟩)
    · exact .inr (.inr ⟨(transact c (readBufFrom 0 n.toNat s).1 .duplex (readBufFrom 0 n.toNat s).2).2.1, by simp,
        by simp [receivedBytes], by simp [effect, doTransact, storeBuf]⟩)
  | readRegMulti a n =>
    exact .inr (.inr ⟨(memRead a n.toNat s).1, by simp, by simp [receivedBytes],
      by simp [effect, doReadRegMulti, storeBuf]⟩)
  | readRxPayload | getPayload =>
    let r := readBufFrom 0 s.payloadSize.toNat s
    exact .inr (.inr ⟨(transact s.cfg.opcRRxPayload r.1 .duplex r.2).2.1, by simp, by simp [receivedBytes, r],
      by simp [effect, doGetPayload, doReadRxPayload, storeBuf, r]⟩)
  | bufWrite i v => exact .inr (.inl ⟨i, v, rfl, rfl⟩)
  | setRfParameters r p => exact .inl (by cases r <;> simp [effect, doSetRfParameters, receivedBytes])
  | setAddress own => exact .inl (by cases own <;> simp [effect, doSetAddress, doWriteRegMulti, receivedBytes])
  | isDataReady => exact .inl (by simp only [effect, doIsDataReady]; split <;> simp [receivedBytes])
  | initController ch p => exact .inl (by simp [effect, doInitialize_eq, receivedBytes])
  | setChannel ch => exact .inl (by simp [effect, receivedBytes])
  | _ =>
    exact .inl (by
      simp [effect, doGetStatus, doReadReg, doWriteRegMulti, doReadBit, doWriteBit, doWriteTxPayload, doFlushTx, doFlushRx,
        doGetTxStatus, doGetRetxCount, doCeSet_eq, doDelayMs_eq, doBufRead, doPowerUpTx, doTransmit, doPowerUpRx,
        doPowerDown, receivedBytes])

end Sys2Proof.Machine
end

