-- ==== Sys2Proof/Laws/Conduct.lean ====
section
/-! SUPPORT. `Conducts s t`: what every operation between two commands does to the pins, the event list and the status latch
(spec/10_state.md R21, R22, R24, R28) and what it hears of an unknown slave (spec/20_memory.md R62), as one relation that composes. -/

namespace Sys2Proof.Machine

/-- From `s` to `t` some events happened: the bus protocol was kept, they lead to the pins of `t`, and STATUS_LATCH is the
status byte of the last frame among them, or untouched when there was none. An unknown slave's queued answers were heard in
order. -/
structure Conducts (s t : State) (es : List Event) : Prop where
  trace : t.trace = s.trace ++ es
  pins : s.csn = true → t.csn = true ∧ replay es (true, s.ce) = some (true, t.ce)
  idle : s.phase = .idle → s.idx = 0 → t.phase = .idle ∧ t.idx = 0
  latch : (t.statusLatch = s.statusLatch ∧ t.statusValid = s.statusValid ∧
        ∀ f o ys, ∃ f', statusFrom f o (es ++ ys) = statusFrom f' o ys) ∨
      (t.statusValid = true ∧ ∀ f o ys, ∃ f', statusFrom f o (es ++ ys) = statusFrom f' (some t.statusLatch) ys)
  cfg : t.cfg = s.cfg
  inputs : t.inputs = s.inputs
  busy : t.busy = s.busy
  hears : ∀ id answers, s.slave = .oracle id answers → t.slave = .oracle id (answers.drop (heard es).length) ∧
    (heard es).take answers.length = answers.take (heard es).length

theorem Conducts.refl (s : State) : Conducts s s [] where
  trace := by simp
  pins h := ⟨h, rfl⟩
  idle h h' := ⟨h, h'⟩
  latch := .inl ⟨rfl, rfl, fun f _ _ => ⟨f, rfl⟩⟩
  cfg := rfl
  inputs := rfl
  busy := rfl
  hears _ _ h := ⟨h, by simp⟩

theorem Conducts.trans {s t u : State} {es es' : List Event} (h : Conducts s t es) (h' : Conducts t u es') :
    Conducts s u (es ++ es') where
  trace := by rw [h'.trace, h.trace, List.append_assoc]
  pins hs := by
    obtain ⟨ht, hr⟩ := h.pins hs
    obtain ⟨hu, hr'⟩ := h'.pins ht
    exact ⟨hu, by rw [replay_append, hr]; exact hr'⟩
  idle hp hi := by
    obtain ⟨hp', hi'⟩ := h.idle hp hi
    exact h'.idle hp' hi'
  latch := by
    rcases h'.latch with ⟨h1, h2, h3⟩ | ⟨h2, h3⟩
    · rcases h.latch with ⟨g1, g2, g3⟩ | ⟨g2, g3⟩
      · refine .inl ⟨h1.trans g1, h2.trans g2, fun f o ys => ?_⟩
        obtain ⟨f', e⟩ := g3 f o (es' ++ ys)
        obtain ⟨f'', e'⟩ := h3 f' o ys
        exact ⟨f'', by rw [List.append_assoc, e, e']⟩
      · refine .inr ⟨h2.trans g2, fun f o ys => ?_⟩
        obtain ⟨f', e⟩ := g3 f o (es' ++ ys)
        obtain ⟨f'', e'⟩ := h3 f' (some t.statusLatch) ys
        exact ⟨f'', by rw [List.append_assoc, e, e', h1]⟩
    · refine .inr ⟨h2, fun f o ys => ?_⟩
      rw [List.append_assoc]
      rcases h.latch with ⟨-, -, g3⟩ | ⟨-, g3⟩
      · obtain ⟨f', e⟩ := g3 f o (es' ++ ys)
        obtain ⟨f'', e'⟩ := h3 f' o ys
        exact ⟨f'', by rw [e, e']⟩
      · obtain ⟨f', e⟩ := g3 f o (es' ++ ys)
        obtain ⟨f'', e'⟩ := h3 f' (some t.statusLatch) ys
        exact ⟨f'', by rw [e, e']⟩
  cfg := h'.cfg.trans h.cfg
  inputs := h'.inputs.trans h.inputs
  busy := h'.busy.trans h.busy
  hears id answers hs := by
    obtain ⟨ht, e⟩ := h.hears id answers hs
    obtain ⟨hu, e'⟩ := h'.hears id _ ht
    rw [List.length_drop] at e'
    refine ⟨by rw [hu, heard_append, List.drop_drop, List.length_append], ?_⟩
    rw [heard_append, List.take_append, e, e', List.length_append, List.take_add]

/-- A whole transaction (R121). -/
theorem Conducts.frame (s : State) (cmd : Byte) (d : Dir) (st : Byte) (io : List (Byte × Byte)) (sl : Slave)
    (hsl : ∀ id answers, s.slave = .oracle id answers → sl = .oracle id (answers.drop (io.length + 1)) ∧
      (st :: io.map (·.2)).take answers.length = answers.take (io.length + 1)) :
    Conducts s (s.afterFrame cmd d st io sl) (frameEvents s.cfg s.hadFrame cmd st io) where
  trace := rfl
  pins _ := ⟨rfl, by simpa [replay] using replay_frame s.ce s.cfg s.hadFrame cmd st io []⟩
  idle _ _ := ⟨rfl, rfl⟩
  latch := .inr ⟨rfl, fun f o ys => ⟨false, statusFrom_frame ..⟩⟩
  cfg := rfl
  inputs := rfl
  busy := rfl
  hears id answers h := by
    have := hsl id answers h
    simpa [heard_frame] using this

/-- A change of the registers that are neither the engine's nor the port's. -/
theorem Conducts.keep {s t u : State} {es : List Event} (h : Conducts s t es)
    (e : u = { t with
      buf := u.buf, resData := u.resData, resFlag := u.resFlag, resCode := u.resCode, resErr := u.resErr
      payloadSize := u.payloadSize, channelCache := u.channelCache, dataRate := u.dataRate, txPower := u.txPower
      initDone := u.initDone, draws := u.draws }) : Conducts s u es := by
  obtain ⟨h1, h2, h3, h4, h5, h6, h7, h8⟩ := h
  rw [e]
  exact ⟨h1, h2, h3, h4, h5, h6, h7, h8⟩

/-- The same change before the events. -/
theorem Conducts.after {s s' t : State} {es : List Event} (h : Conducts s' t es)
    (e : s' = { s with
      buf := s'.buf, resData := s'.resData, resFlag := s'.resFlag, resCode := s'.resCode, resErr := s'.resErr
      payloadSize := s'.payloadSize, channelCache := s'.channelCache, dataRate := s'.dataRate, txPower := s'.txPower
      initDone := s'.initDone, draws := s'.draws }) : Conducts s t es := by
  obtain ⟨h1, h2, h3, h4, h5, h6, h7, h8⟩ := h
  rw [e] at h1 h2 h3 h4 h5 h6 h7 h8
  exact ⟨h1, h2, h3, h4, h5, h6, h7, h8⟩

theorem Conducts.ceSet (l : Bool) (s : State) : Conducts s (doCeSet l s) [.ce l] where
  trace := rfl
  pins h := ⟨h, rfl⟩
  idle h h' := ⟨h, h'⟩
  latch := .inl ⟨rfl, rfl, fun f _ _ => ⟨f, rfl⟩⟩
  cfg := rfl
  inputs := rfl
  busy := rfl
  hears _ _ h := ⟨h, by simp⟩

theorem Conducts.delay (n : Nat) (s : State) : Conducts s (doDelayMs n s) [.wait (.ms n)] where
  trace := rfl
  pins h := ⟨h, rfl⟩
  idle h h' := ⟨h, h'⟩
  latch := .inl ⟨rfl, rfl, fun f _ _ => ⟨f, rfl⟩⟩
  cfg := rfl
  inputs := rfl
  busy := rfl
  hears _ _ h := ⟨h, by simp⟩

theorem transact_conducts (c : Byte) (tx : List Byte) (d : Dir) (s : State) :
    ∃ es, Conducts s (transact c tx d s).2.2 es := by
  obtain ⟨st, rx, sl, hlen, h⟩ := transact_next c tx d s
  have hh := transact_hears c tx d s
  rw [h] at hh ⊢
  refine ⟨_, Conducts.frame _ _ _ _ _ _ fun id answers hs => ?_⟩
  have hh := hh id answers hs
  simpa [hlen, List.map_snd_zip, State.afterFrame] using hh

theorem readBufFrom_conducts (i n : Nat) (s : State) : Conducts s (readBufFrom i n s).2 [] := by
  obtain ⟨tx, -, -, h⟩ := readBufFrom_next_from i n s
  rw [h]
  exact (Conducts.refl s).keep rfl

theorem doTransact_conducts (c : Byte) (n : Nat) (d : Dir) (s : State) : ∃ es, Conducts s (doTransact c n d s) es := by
  cases d with
  | send =>
    obtain ⟨es, h⟩ := transact_conducts c (readBufFrom 0 n s).1 .send (readBufFrom 0 n s).2
    exact ⟨_, ((readBufFrom_conducts 0 n s).trans h).keep rfl⟩
  | recv =>
    obtain ⟨es, h⟩ := transact_conducts c (List.replicate n s.cfg.dummyByte) .recv s
    exact ⟨_, h.keep rfl⟩
  | duplex =>
    obtain ⟨es, h⟩ := transact_conducts c (readBufFrom 0 n s).1 .duplex (readBufFrom 0 n s).2
    exact ⟨_, ((readBufFrom_conducts 0 n s).trans h).keep rfl⟩

theorem commandOnly_conducts (c : Byte) (s : State) : ∃ es, Conducts s (commandOnly c s).2 es :=
  transact_conducts c [] .send s

theorem memReadByte_conducts (a : Byte) (s : State) : ∃ es, Conducts s (memReadByte a s).2 es :=
  transact_conducts (readCommand s.cfg a) (List.replicate 1 s.cfg.dummyByte) .recv s

theorem memWrite_conducts (a : Byte) (v : List Byte) (s : State) : ∃ es, Conducts s (memWrite a v s) es :=
  transact_conducts (writeCommand s.cfg a) v .send s

theorem doWriteReg_conducts (a v : Byte) (s : State) : ∃ es, Conducts s (doWriteReg a v s) es := by
  obtain ⟨es, h⟩ := memWrite_conducts a [v] s
  exact ⟨es, h.keep rfl⟩

theorem doWriteRegMulti_conducts (a : Byte) (n : Nat) (s : State) : ∃ es, Conducts s (doWriteRegMulti a n s) es := by
  obtain ⟨es, h⟩ := memWrite_conducts a (readBufFrom 0 n s).1 (readBufFrom 0 n s).2
  exact ⟨_, ((readBufFrom_conducts 0 n s).trans h).keep rfl⟩

theorem doWriteBit_conducts (a : Byte) (k : Nat) (v : Bool) (s : State) : ∃ es, Conducts s (doWriteBit a k v s) es := by
  obtain ⟨es, h⟩ := memReadByte_conducts a s
  simp only [doWriteBit]
  generalize memReadByte a s = r at h ⊢
  obtain ⟨es', h'⟩ := memWrite_conducts a [assignBit r.1 k v] r.2
  generalize memWrite a [assignBit r.1 k v] r.2 = t at h' ⊢
  exact ⟨_, (h.trans h').keep rfl⟩

theorem doFlushTx_conducts (s : State) : ∃ es, Conducts s (doFlushTx s) es := by
  obtain ⟨es, h⟩ := commandOnly_conducts s.cfg.opcFlushTx s
  exact ⟨es, h.keep rfl⟩

theorem doFlushRx_conducts (s : State) : ∃ es, Conducts s (doFlushRx s) es := by
  obtain ⟨es, h⟩ := commandOnly_conducts s.cfg.opcFlushRx s
  exact ⟨es, h.keep rfl⟩

theorem doWriteTxPayload_conducts (s : State) : ∃ es, Conducts s (doWriteTxPayload s) es := by
  obtain ⟨es, h⟩ := transact_conducts s.cfg.opcWTxPayload (readBufFrom 0 s.payloadSize.toNat s).1 .send
    (readBufFrom 0 s.payloadSize.toNat s).2
  exact ⟨_, ((readBufFrom_conducts 0 s.payloadSize.toNat s).trans h).keep rfl⟩

theorem doReadRxPayload_conducts (s : State) : ∃ es, Conducts s (doReadRxPayload s) es := by
  obtain ⟨es, h⟩ := transact_conducts s.cfg.opcRRxPayload (readBufFrom 0 s.payloadSize.toNat s).1 .duplex
    (readBufFrom 0 s.payloadSize.toNat s).2
  exact ⟨_, ((readBufFrom_conducts 0 s.payloadSize.toNat s).trans h).keep rfl⟩

theorem doSetChannel_conducts (ch : Byte) (s : State) : ∃ es, Conducts s (doSetChannel ch s) es := by
  unfold doSetChannel
  split
  · obtain ⟨es, h⟩ := doWriteReg_conducts s.cfg.regRfCh ch s
    exact ⟨es, h.keep rfl⟩
  · obtain ⟨es, h⟩ := doWriteReg_conducts s.cfg.regRfCh s.cfg.chFallback s
    exact ⟨es, h.keep rfl⟩

theorem doSetRfParameters_conducts (r : DataRate) (p : TxPower) (s : State) :
    ∃ es, Conducts s (doSetRfParameters r p s) es := by
  obtain ⟨es, h⟩ := doWriteReg_conducts s.cfg.regRfSetup (rfSetup s.cfg r p) s
  exact ⟨es, h.keep rfl⟩

theorem writePipeWidths_conducts (as : List Byte) (s : State) : ∃ es, Conducts s (writePipeWidths as s) es := by
  induction as generalizing s with
  | nil => exact ⟨_, Conducts.refl s⟩
  | cons a as ih =>
    obtain ⟨es, h⟩ := doWriteReg_conducts a (payloadByte s.payloadSize) s
    obtain ⟨es', h'⟩ := ih (doWriteReg a (payloadByte s.payloadSize) s)
    exact ⟨_, h.trans h'⟩

theorem doIsDataReady_conducts (s : State) : ∃ es, Conducts s (doIsDataReady s) es := by
  obtain ⟨es, h⟩ := commandOnly_conducts s.cfg.opcNop s
  simp only [doIsDataReady]
  generalize commandOnly s.cfg.opcNop s = r at h ⊢
  obtain ⟨es', h'⟩ := memReadByte_conducts s.cfg.regFifoStatus r.2
  generalize memReadByte s.cfg.regFifoStatus r.2 = q at h' ⊢
  split
  · exact ⟨_, h.keep rfl⟩
  · exact ⟨_, (h.trans h').keep rfl⟩

theorem reportOk_conducts (s : State) : Conducts s (reportOk s) [] := (Conducts.refl s).keep rfl

theorem doTransmit_conducts (s : State) : ∃ es, Conducts s (doTransmit s) es := by
  simp only [doTransmit, doPowerUpTx]
  have h₁ := Conducts.ceSet false s
  generalize doCeSet false s = q at h₁ ⊢
  obtain ⟨_, h₂⟩ := doWriteReg_conducts q.cfg.regConfig q.cfg.cfgTx q
  generalize doWriteReg q.cfg.regConfig q.cfg.cfgTx q = r at h₂ ⊢
  have h₃ := reportOk_conducts r
  generalize reportOk r = r' at h₃ ⊢
  obtain ⟨_, h₄⟩ := doWriteReg_conducts s.cfg.regStatus s.cfg.clrAll r'
  generalize doWriteReg s.cfg.regStatus s.cfg.clrAll r' = u at h₄ ⊢
  obtain ⟨_, h₅⟩ := doFlushTx_conducts u
  generalize doFlushTx u = v at h₅ ⊢
  obtain ⟨_, h₆⟩ := doWriteTxPayload_conducts v
  generalize doWriteTxPayload v = w at h₆ ⊢
  have h₇ := (Conducts.ceSet true w).trans (Conducts.delay s.cfg.tDwellMs (doCeSet true w))
  generalize doDelayMs s.cfg.tDwellMs (doCeSet true w) = x at h₇ ⊢
  have h₈ := (Conducts.ceSet false x).trans (reportOk_conducts (doCeSet false x))
  exact ⟨_, ((((((h₁.trans h₂).trans h₃).trans h₄).trans h₅).trans h₆).trans h₇).trans h₈⟩

theorem doPowerUpRx_conducts (s : State) : ∃ es, Conducts s (doPowerUpRx s) es := by
  simp only [doPowerUpRx]
  have h₁ := Conducts.ceSet false s
  generalize doCeSet false s = q at h₁ ⊢
  obtain ⟨_, h₂⟩ := doFlushRx_conducts q
  generalize doFlushRx q = r at h₂ ⊢
  obtain ⟨_, h₃⟩ := doWriteReg_conducts s.cfg.regStatus s.cfg.clrAll r
  generalize doWriteReg s.cfg.regStatus s.cfg.clrAll r = u at h₃ ⊢
  obtain ⟨_, h₄⟩ := doWriteReg_conducts s.cfg.regConfig s.cfg.cfgRx u
  generalize doWriteReg s.cfg.regConfig s.cfg.cfgRx u = v at h₄ ⊢
  have h₅ := (Conducts.ceSet true v).trans (reportOk_conducts (doCeSet true v))
  exact ⟨_, (((h₁.trans h₂).trans h₃).trans h₄).trans h₅⟩

theorem doGetPayload_conducts (s : State) : ∃ es, Conducts s (doGetPayload s) es := by
  simp only [doGetPayload]
  obtain ⟨_, h₁⟩ := doReadRxPayload_conducts s
  generalize doReadRxPayload s = q at h₁ ⊢
  obtain ⟨_, h₂⟩ := doWriteReg_conducts s.cfg.regStatus s.cfg.clrRxDr q
  generalize doWriteReg s.cfg.regStatus s.cfg.clrRxDr q = r at h₂ ⊢
  exact ⟨_, (h₁.trans h₂).trans (reportOk_conducts r)⟩

theorem doPowerDown_conducts (s : State) : ∃ es, Conducts s (doPowerDown s) es := by
  simp only [doPowerDown]
  have h₁ := Conducts.ceSet false s
  generalize doCeSet false s = q at h₁ ⊢
  obtain ⟨_, h₂⟩ := doWriteBit_conducts s.cfg.regConfig s.cfg.bitPwrUp false q
  generalize doWriteBit s.cfg.regConfig s.cfg.bitPwrUp false q = r at h₂ ⊢
  exact ⟨_, (h₁.trans h₂).trans (reportOk_conducts r)⟩

theorem doSetAddress_conducts (own : Bool) (s : State) : ∃ es, Conducts s (doSetAddress own s) es := by
  simp only [doSetAddress]
  obtain ⟨_, h₁⟩ := doWriteRegMulti_conducts s.cfg.regRxAddrP0 s.cfg.addrLen s
  generalize doWriteRegMulti s.cfg.regRxAddrP0 s.cfg.addrLen s = q at h₁ ⊢
  cases own with
  | true => exact ⟨_, h₁.trans (reportOk_conducts q)⟩
  | false =>
    obtain ⟨_, h₂⟩ := doWriteRegMulti_conducts s.cfg.regTxAddr s.cfg.addrLen q
    exact ⟨_, (h₁.trans h₂).trans (reportOk_conducts _)⟩

theorem initRegisters_conducts (s : State) : ∃ es, Conducts s (initRegisters s) es := by
  simp only [initRegisters]
  obtain ⟨_, h₁⟩ := doWriteReg_conducts s.cfg.regConfig s.cfg.cfgBase s
  obtain ⟨_, h₂⟩ := doWriteReg_conducts s.cfg.regSetupRetr s.cfg.retrValue (doWriteReg s.cfg.regConfig s.cfg.cfgBase s)
  generalize doWriteReg s.cfg.regSetupRetr s.cfg.retrValue (doWriteReg s.cfg.regConfig s.cfg.cfgBase s) = q at h₂ ⊢
  obtain ⟨_, h₃⟩ := doSetRfParameters_conducts q.dataRate q.txPower q
  generalize doSetRfParameters q.dataRate q.txPower q = r at h₃ ⊢
  obtain ⟨_, h₄⟩ := doWriteReg_conducts s.cfg.regDynpd s.cfg.dynpdOff r
  generalize doWriteReg s.cfg.regDynpd s.cfg.dynpdOff r = u at h₄ ⊢
  obtain ⟨_, h₅⟩ := doWriteReg_conducts s.cfg.regFeature s.cfg.featureOff u
  generalize doWriteReg s.cfg.regFeature s.cfg.featureOff u = v at h₅ ⊢
  obtain ⟨_, h₆⟩ := doWriteReg_conducts s.cfg.regStatus s.cfg.clrAll v
  exact ⟨_, ((((h₁.trans h₂).trans h₃).trans h₄).trans h₅).trans h₆⟩

theorem initFinish_conducts (s : State) : ∃ es, Conducts s (initFinish s) es := by
  simp only [initFinish, doPowerUpTx_eq]
  obtain ⟨_, h₁⟩ := doFlushTx_conducts s
  generalize doFlushTx s = q at h₁ ⊢
  obtain ⟨_, h₂⟩ := doFlushRx_conducts q
  generalize doFlushRx q = r at h₂ ⊢
  obtain ⟨_, h₃⟩ := writePipeWidths_conducts (s.cfg.regRxPw.take s.cfg.nPipes) r
  generalize writePipeWidths (s.cfg.regRxPw.take s.cfg.nPipes) r = u at h₃ ⊢
  obtain ⟨_, h₄⟩ := doWriteReg_conducts u.cfg.regConfig u.cfg.cfgTx u
  exact ⟨_, ((h₁.trans h₂).trans h₃).trans h₄⟩

theorem doInitialize_conducts (ch p : Byte) (s : State) : ∃ es, Conducts s (doInitialize ch p s) es := by
  have h₀ := (Conducts.ceSet false s).trans (Conducts.delay s.cfg.tSettleMs (doCeSet false s))
  have h₀' : Conducts s { s with
      payloadSize := clampPayload s.cfg p, initDone := true, channelCache := s.cfg.chSentinel, ce := false
      trace := s.trace ++ [.ce false, .wait (.ms s.cfg.tSettleMs)], resErr := false } _ :=
    h₀.keep (by simp [doCeSet_eq, doDelayMs_eq])
  rw [doInitialize_eq]
  generalize ({ s with
      payloadSize := clampPayload s.cfg p, initDone := true, channelCache := s.cfg.chSentinel, ce := false
      trace := s.trace ++ [.ce false, .wait (.ms s.cfg.tSettleMs)], resErr := false } : State) = q at h₀' ⊢
  obtain ⟨_, h₁⟩ := initRegisters_conducts q
  generalize initRegisters q = r at h₁ ⊢
  obtain ⟨_, h₂⟩ := doSetChannel_conducts ch r
  generalize doSetChannel ch r = u at h₂ ⊢
  obtain ⟨_, h₃⟩ := initFinish_conducts u
  generalize initFinish u = v at h₃ ⊢
  exact ⟨_, (((h₀'.trans h₁).trans h₂).trans h₃).keep rfl⟩

/-- Every command conducts itself. -/
theorem effect_conducts (s : State) (i : Instr) : ∃ es, Conducts s (effect s i) es := by
  cases i with
  | transact c n d =>
    cases d with
    | none => exact ⟨_, Conducts.refl s⟩
    | some d => exact doTransact_conducts c n.toNat d s
  | getStatus =>
    obtain ⟨es, h⟩ := commandOnly_conducts s.cfg.opcNop s
    exact ⟨es, h.keep rfl⟩
  | readReg a =>
    obtain ⟨es, h⟩ := memReadByte_conducts a s
    exact ⟨es, h.keep rfl⟩
  | writeReg a v => exact doWriteReg_conducts a v s
  | readRegMulti a n =>
    obtain ⟨es, h⟩ := transact_conducts (readCommand s.cfg a) (List.replicate n.toNat s.cfg.dummyByte) .recv s
    exact ⟨es, h.keep rfl⟩
  | writeRegMulti a n => exact doWriteRegMulti_conducts a n.toNat s
  | readBit a k =>
    obtain ⟨es, h⟩ := memReadByte_conducts a s
    exact ⟨es, h.keep rfl⟩
  | writeBit a k v => exact doWriteBit_conducts a k.toNat v s
  | writeTxPayload => exact doWriteTxPayload_conducts s
  | readRxPayload => exact doReadRxPayload_conducts s
  | flushTx => exact doFlushTx_conducts s
  | flushRx => exact doFlushRx_conducts s
  | getTxStatus =>
    obtain ⟨es, h⟩ := commandOnly_conducts s.cfg.opcNop s
    exact ⟨es, h.keep rfl⟩
  | isDataReady => exact doIsDataReady_conducts s
  | getRetxCount =>
    obtain ⟨es, h⟩ := memReadByte_conducts s.cfg.regObserveTx s
    exact ⟨es, h.keep rfl⟩
  | ceSet l => exact ⟨_, Conducts.ceSet l s⟩
  | delayMs ms => exact ⟨_, Conducts.delay ms.toNat s⟩
  | bufWrite i v => exact ⟨_, (Conducts.refl s).keep rfl⟩
  | bufRead i =>
    obtain ⟨b, -, h⟩ := readBuf_next i.toNat s
    exact ⟨_, (Conducts.refl s).keep (by simp only [effect, doBufRead, h, reportOk])⟩
  | initController ch p => exact doInitialize_conducts ch p s
  | setChannel ch => exact doSetChannel_conducts ch s
  | setAddress own => exact doSetAddress_conducts own s
  | setRfParameters r p =>
    cases r with
    | none => exact ⟨_, Conducts.refl s⟩
    | some r => exact doSetRfParameters_conducts r p s
  | powerUpTx => exact doWriteReg_conducts s.cfg.regConfig s.cfg.cfgTx s
  | transmit => exact doTransmit_conducts s
  | powerUpRx => exact doPowerUpRx_conducts s
  | getPayload => exact doGetPayload_conducts s
  | powerDown => exact doPowerDown_conducts s

/-- A word that runs to completion conducts itself (R120). -/
theorem runCommand_conducts {w : CommandWord} {s t : State} (h : runCommand w s = .next t) :
    ∃ es u, Conducts (accept s) u es ∧ t = { u with busy := false } := by
  obtain ⟨i, u, -, he, ht⟩ := runCommand_next h
  obtain ⟨es, hc⟩ := effect_conducts (accept s) i
  rw [← exec_next he] at hc
  exact ⟨es, u, hc, ht⟩

/-- A valid STATUS_LATCH stays the status byte of the last transaction (R28). -/
theorem Conducts.lastStatus {s u : State} {es : List Event} (hc : Conducts s u es)
    (h : s.statusValid = true → lastStatus s.trace = some s.statusLatch) (hv : u.statusValid = true) :
    Machine.lastStatus u.trace = some u.statusLatch := by
  rw [hc.trace, Machine.lastStatus]
  obtain ⟨f, e⟩ := statusFrom_append false none s.trace es
  rw [e]
  rcases hc.latch with ⟨h1, h2, h3⟩ | ⟨_, h3⟩
  · obtain ⟨f', e'⟩ := h3 f (statusFrom false none s.trace) []
    rw [List.append_nil] at e'
    rw [e', h1]
    exact h (h2 ▸ hv)
  · obtain ⟨f', e'⟩ := h3 f (statusFrom false none s.trace) []
    rw [List.append_nil] at e'
    rw [e']
    rfl

end Sys2Proof.Machine
end

