-- ==== Sys2Proof/Laws/Encoding.lean ====
section
/-! SUPPORT. The four fields of a command word (spec/30_encoding.md R93). -/

namespace Sys2Proof

theorem hopField_packWord (h a b c : Byte) : hopField (packWord h a b c) = h := by
  apply BitVec.eq_of_getLsbD_eq
  intro i hi
  simp only [hopField, packWord, BitVec.getLsbD_extractLsb', BitVec.getLsbD_append]
  rw [if_neg (by omega), if_neg (by omega), if_neg (by omega), show 24 + i - 8 - 8 - 8 = i by omega]
  simp [hi]

theorem aField_packWord (h a b c : Byte) : aField (packWord h a b c) = a := by
  apply BitVec.eq_of_getLsbD_eq
  intro i hi
  simp only [aField, packWord, BitVec.getLsbD_extractLsb', BitVec.getLsbD_append]
  rw [if_neg (by omega), if_neg (by omega), if_pos (by omega), show 16 + i - 8 - 8 = i by omega]
  simp [hi]

theorem bField_packWord (h a b c : Byte) : bField (packWord h a b c) = b := by
  apply BitVec.eq_of_getLsbD_eq
  intro i hi
  simp only [bField, packWord, BitVec.getLsbD_extractLsb', BitVec.getLsbD_append]
  rw [if_neg (by omega), if_pos (by omega), show 8 + i - 8 = i by omega]
  simp [hi]

theorem cField_packWord (h a b c : Byte) : cField (packWord h a b c) = c := by
  apply BitVec.eq_of_getLsbD_eq
  intro i hi
  simp only [cField, packWord, BitVec.getLsbD_extractLsb', BitVec.getLsbD_append]
  rw [if_pos (by omega), show 0 + i = i by omega]
  simp [hi]

/-- The word of any command holds its HOP and its operand fields (R93). -/
theorem encode_fields (i : Instr) :
    hopField (encode i) = i.hop ∧ aField (encode i) = i.fields.1 ∧ bField (encode i) = i.fields.2.1 ∧
      cField (encode i) = i.fields.2.2 :=
  ⟨hopField_packWord .., aField_packWord .., bField_packWord .., cField_packWord ..⟩

/-! A word bit by bit -/

theorem getLsbD_packWord (h a b c : Byte) (i : Nat) : (packWord h a b c).getLsbD i =
    if i < 8 then c.getLsbD i else if i < 16 then b.getLsbD (i - 8)
    else if i < 24 then a.getLsbD (i - 16) else h.getLsbD (i - 24) := by
  simp only [packWord, BitVec.getLsbD_append]
  by_cases h1 : i < 8
  · simp [h1]
  · by_cases h2 : i < 16
    · simp [h1, h2, show i - 8 < 8 by omega]
    · by_cases h3 : i < 24
      · simp [h1, h2, h3, show ¬ i - 8 < 8 by omega, show i - 16 < 8 by omega, show i - 8 - 8 = i - 16 by omega]
      · simp [h1, h2, h3, show ¬ i - 8 < 8 by omega, show ¬ i - 8 - 8 < 8 by omega, show i - 8 - 8 - 8= i - 24 by omega]

theorem getLsbD_fields (w : CommandWord) : ∀ i, i < 32 → w.getLsbD i = if i < 8 then (cField w).getLsbD i else if i < 16 then (bField w).getLsbD (i-8) else if i < 24 then (aField w).getLsbD (i-16) else (hopField w).getLsbD (i-24) := by
  intro i hi
  simp only [hopField, aField, bField, cField, BitVec.getLsbD_extractLsb']
  split
  · simp [*]
  · split
    · simp [show i - 8 < 8 by omega, show 8 + (i - 8) = i by omega]
    · split
      · simp [show i - 16 < 8 by omega, show 16 + (i - 16) = i by omega]
      · simp [show i - 24 < 8 by omega, show 24 + (i - 24) = i by omega]

/-- A word is its four fields (R93). -/
theorem packWord_fields (w : CommandWord) : packWord (hopField w) (aField w) (bField w) (cField w) = w := by
  apply BitVec.eq_of_getLsbD_eq
  intro i hi
  rw [getLsbD_packWord, ← getLsbD_fields w i hi]

theorem packWord_and (h a b c h' a' b' c' : Byte) : packWord h a b c &&& packWord h' a' b' c' = packWord (h &&& h') (a &&& a') (b &&& b') (c &&& c') := by
  apply BitVec.eq_of_getLsbD_eq
  intro i hi
  simp only [BitVec.getLsbD_and, getLsbD_packWord]
  repeat' split
  all_goals simp

theorem packWord_inj {h a b c h' a' b' c' : Byte} (e : packWord h a b c = packWord h' a' b' c') : h = h' ∧ a = a' ∧ b = b' ∧ c = c' := by
  refine ⟨?_, ?_, ?_, ?_⟩
  · rw [← hopField_packWord h a b c, e, hopField_packWord]
  · rw [← aField_packWord h a b c, e, aField_packWord]
  · rw [← bField_packWord h a b c, e, bField_packWord]
  · rw [← cField_packWord h a b c, e, cField_packWord]

/-! Operand codes (R96) -/

@[simp] theorem dirOfCode_dirCode (d : Option Dir) : dirOfCode (dirCode d) = d := by
  rcases d with _ | _ | _ | _ <;> rfl

@[simp] theorem dirCode_dirOfCode (k : BitVec 2) : dirCode (dirOfCode k) = k := by revert k; decide

@[simp] theorem dataRateOfCode_dataRateCode (d : Option DataRate) : dataRateOfCode (dataRateCode d) = d := by
  rcases d with _ | _ | _ | _ <;> rfl

@[simp] theorem dataRateCode_dataRateOfCode (k : BitVec 2) : dataRateCode (dataRateOfCode k) = k := by revert k; decide

@[simp] theorem txPowerOfCode_txPowerCode (p : TxPower) : txPowerOfCode (txPowerCode p) = p := by cases p <;> rfl

@[simp] theorem txPowerCode_txPowerOfCode (k : BitVec 2) : txPowerCode (txPowerOfCode k) = k := by revert k; decide

/-- A 16-bit operand is its two bytes, the high one first (R94). -/
theorem highLow (ms : BitVec 16) : (ms.extractLsb' 8 8 : Byte) ++ (ms.extractLsb' 0 8 : Byte) = ms := by
  apply BitVec.eq_of_getLsbD_eq
  intro i hi
  rw [BitVec.getLsbD_append, BitVec.getLsbD_extractLsb', BitVec.getLsbD_extractLsb']
  by_cases h : i < 8
  · simp [h]
  · have h' : i - 8 < 8 := by omega
    simp only [h, if_false, h', decide_true, Bool.true_and]
    congr 1
    omega

end Sys2Proof
end

