-- ==== Sys2Proof/Laws/PerInstr.lean ====
section
/-! SUPPORT. Statements made per command: each command's word puts its HOP and its operand fields where
spec/30_encoding.md R93 puts them. -/

namespace Sys2Proof.Laws.EncodesRow

/-- The word of `i` holds its HOP in bits 31:24 and its fields A, B and C in bits 23:16, 15:8 and 7:0 (R93). -/
def Statement (i : Instr) : Prop :=
  hopField (encode i) = i.hop ∧ aField (encode i) = i.fields.1 ∧ bField (encode i) = i.fields.2.1 ∧
    cField (encode i) = i.fields.2.2

theorem transact (commandByte length : Byte) (dir : Option Dir) : Statement (.transact commandByte length dir) := encode_fields _
theorem getStatus : Statement .getStatus := encode_fields _
theorem readReg (addr : Byte) : Statement (.readReg addr) := encode_fields _
theorem writeReg (addr value : Byte) : Statement (.writeReg addr value) := encode_fields _
theorem readRegMulti (addr count : Byte) : Statement (.readRegMulti addr count) := encode_fields _
theorem writeRegMulti (addr count : Byte) : Statement (.writeRegMulti addr count) := encode_fields _
theorem readBit (addr : Byte) (bitIndex : BitVec 3) : Statement (.readBit addr bitIndex) := encode_fields _
theorem writeBit (addr : Byte) (bitIndex : BitVec 3) (value : Bool) : Statement (.writeBit addr bitIndex value) := encode_fields _
theorem writeTxPayload : Statement .writeTxPayload := encode_fields _
theorem readRxPayload : Statement .readRxPayload := encode_fields _
theorem flushTx : Statement .flushTx := encode_fields _
theorem flushRx : Statement .flushRx := encode_fields _
theorem getTxStatus : Statement .getTxStatus := encode_fields _
theorem isDataReady : Statement .isDataReady := encode_fields _
theorem getRetxCount : Statement .getRetxCount := encode_fields _
theorem ceSet (level : Bool) : Statement (.ceSet level) := encode_fields _
theorem delayMs (ms : BitVec 16) : Statement (.delayMs ms) := encode_fields _
theorem bufWrite (index value : Byte) : Statement (.bufWrite index value) := encode_fields _
theorem bufRead (index : Byte) : Statement (.bufRead index) := encode_fields _
theorem initController (channel payloadSize : Byte) : Statement (.initController channel payloadSize) := encode_fields _
theorem setChannel (channel : Byte) : Statement (.setChannel channel) := encode_fields _
theorem setAddress (isOwnAddress : Bool) : Statement (.setAddress isOwnAddress) := encode_fields _
theorem setRfParameters (dataRate : Option DataRate) (outputPower : TxPower) : Statement (.setRfParameters dataRate outputPower) := encode_fields _
theorem powerUpTx : Statement .powerUpTx := encode_fields _
theorem transmit : Statement .transmit := encode_fields _
theorem powerUpRx : Statement .powerUpRx := encode_fields _
theorem getPayload : Statement .getPayload := encode_fields _
theorem powerDown : Statement .powerDown := encode_fields _

end Sys2Proof.Laws.EncodesRow
end

