-- ==== Sys2Proof/Laws/Slave.lean ====
section
/-! SUPPORT. A transaction with a slave whose answers are known: the queued answers of an unknown slave (spec/20_memory.md R62), and the
reference slave (R80, R81). -/

namespace Sys2Proof.Machine

/-- For the MOSI bytes in order, this slave answers these MISO bytes, whatever the events before, and is then `sl'`. -/
def Slave.Gives (c : Config) : Slave → List Byte → List Byte → Slave → Prop
  | sl, [], [], sl' => sl' = sl
  | sl, m :: ms, b :: bs, sl' => ∃ sl₁, (∀ h, sl.exchange c h m = (b, sl₁)) ∧ Slave.Gives c sl₁ ms bs sl'
  | _, [], _ :: _, _ => False
  | _, _ :: _, [], _ => False

theorem Slave.Gives.length {c : Config} {tx rx : List Byte} {sl sl' : Slave} (h : sl.Gives c tx rx sl') :
    rx.length = tx.length := by
  induction tx generalizing rx sl with
  | nil => cases rx with
    | nil => rfl
    | cons => exact h.elim
  | cons m tx ih => cases rx with
    | nil => exact h.elim
    | cons b rx => obtain ⟨_, -, h⟩ := h; simpa using ih h

theorem xferData_of {tx rx : List Byte} {sl : Slave} (s : State) (h : s.slave.Gives s.cfg tx rx sl) :
    xferData tx s = (rx, { s with
      slave := sl, idx := s.idx + tx.length, trace := s.trace ++ (tx.zip rx).map (fun p => .xfer p.1 p.2) }) := by
  induction tx generalizing rx s with
  | nil => cases rx with
    | nil => cases h; simp [xferData]
    | cons => exact h.elim
  | cons m tx ih => cases rx with
    | nil => exact h.elim
    | cons b rx =>
      obtain ⟨sl₁, hx, h⟩ := h
      have := ih { s with slave := sl₁, trace := s.trace ++ [.xfer m b], idx := s.idx + 1 } h
      simp only [xferData, xfer, hx, emit, this]
      simp [Nat.add_assoc, Nat.add_comm 1]

/-- A whole transaction (R121) with a slave whose answers are known. -/
theorem transact_of {cmd st : Byte} {tx rx : List Byte} {sl : Slave} (d : Dir) (s : State)
    (h : (s.slave.onCsn s.cfg false).Gives s.cfg (cmd :: tx) (st :: rx) sl) :
    transact cmd tx d s = (st, rx, s.afterFrame cmd d st (tx.zip rx) (sl.onCsn s.cfg true)) := by
  have hlen := h.length
  obtain ⟨sl₁, hx, h⟩ := h
  unfold transact
  simp only [openFrame, idleWait_eq, chipSelectWait_eq, setCsn, emit, xferCommand, xfer, hx]
  rw [xferData_of _ h]
  simp only [closeFrame, chipSelectWait_eq, setCsn, emit]
  simp only [List.length_cons, Nat.add_right_cancel_iff] at hlen
  simp [State.afterFrame, frameEvents, hlen]

/-! An unknown slave with answers ready -/

theorem Slave.gives_oracle (c : Config) (id : Nat) (tx rx later : List Byte) (h : rx.length = tx.length) :
    (Slave.oracle id (rx ++ later)).Gives c tx rx (.oracle id later) := by
  induction tx generalizing rx with
  | nil => cases rx with
    | nil => rfl
    | cons => simp at h
  | cons m tx ih => cases rx with
    | nil => simp at h
    | cons b rx => exact ⟨_, fun _ => rfl, ih rx (by simpa using h)⟩

theorem transact_oracle (cmd st : Byte) (tx rx later : List Byte) (id : Nat) (d : Dir) (s : State)
    (hs : s.slave = .oracle id (st :: rx ++ later)) (h : rx.length = tx.length) :
    transact cmd tx d s = (st, rx, s.afterFrame cmd d st (tx.zip rx) (.oracle id later)) := by
  refine transact_of d s (sl := .oracle id later) ?_
  rw [hs]
  exact Slave.gives_oracle s.cfg id (cmd :: tx) (st :: rx) later (by simpa using h)

/-- A frame of the command byte alone. -/
theorem commandOnly_oracle {cmd st : Byte} {later : List Byte} {id : Nat} {s : State}
    (hs : s.slave = .oracle id (st :: later)) :
    commandOnly cmd s = (st, s.afterFrame cmd .send st [] (.oracle id later)) := by
  simp [commandOnly, transact_oracle cmd st [] [] later id .send s hs rfl]

/-- A one-byte register read (R131). -/
theorem memReadByte_oracle {a st b : Byte} {later : List Byte} {id : Nat} {s : State}
    (hs : s.slave = .oracle id (st :: b :: later)) :
    memReadByte a s = (b, s.afterFrame (s.cfg.opcRRegister ||| a) .recv st [(s.cfg.dummyByte, b)] (.oracle id later)) := by
  have h := transact_oracle (s.cfg.opcRRegister ||| a) st [s.cfg.dummyByte] [b] later id .recv s hs rfl
  simp only [memReadByte, memRead, readCommand, List.replicate_one, h]
  rfl

/-- A one-byte register write (R132). -/
theorem memWrite_oracle {a v st b : Byte} {later : List Byte} {id : Nat} {s : State}
    (hs : s.slave = .oracle id (st :: b :: later)) :
    memWrite a [v] s = s.afterFrame (s.cfg.opcWRegister ||| a) .send st [(v, b)] (.oracle id later) := by
  have h := transact_oracle (s.cfg.opcWRegister ||| a) st [v] [b] later id .send s hs rfl
  simp only [memWrite, writeCommand, h]
  rfl

/-- WRITE_BIT past its refusal (R136): the byte read decides the byte written. -/
theorem doWriteBit_oracle {a st old st₂ b : Byte} {later : List Byte} {id : Nat} {s : State} (k : Nat) (v : Bool)
    (hs : s.slave = .oracle id (st :: old :: st₂ :: b :: later)) :
    doWriteBit a k v s = { (s.afterFrame (s.cfg.opcRRegister ||| a) .recv st [(s.cfg.dummyByte, old)]
        (.oracle id (st₂ :: b :: later))).afterFrame (s.cfg.opcWRegister ||| a) .send st₂ [(assignBit old k v, b)]
        (.oracle id later) with resData := assignBit old k v, resErr := false } := by
  have h := memWrite_oracle (a := a) (v := assignBit old k v) (s := s.afterFrame (s.cfg.opcRRegister ||| a) .recv st
    [(s.cfg.dummyByte, old)] (.oracle id (st₂ :: b :: later))) rfl
  simp only [doWriteBit, memReadByte_oracle hs, h, reportOk]
  rfl

/-- READ_RX_PAYLOAD past its refusals (R142). -/
theorem doReadRxPayload_oracle {st : Byte} {rx later : List Byte} {id : Nat} {s : State}
    (hs : s.slave = .oracle id (st :: rx ++ later)) (hl : rx.length = s.payloadSize.toNat) :
    ∃ (tx : List Byte) (k : Nat), doReadRxPayload s = { s.afterFrame s.cfg.opcRRxPayload .duplex st (tx.zip rx) (.oracle id later) with
      draws := k, buf := s.buf.writeFrom 0 rx, resErr := false } := by
  obtain ⟨tx, htx, e⟩ := readBufFrom_next s.payloadSize.toNat s
  have h := transact_oracle s.cfg.opcRRxPayload st tx rx later id .duplex
    { s with draws := s.draws + s.unwrittenBelow s.payloadSize.toNat } hs (hl.trans htx.1.symm)
  exact ⟨tx, _, by simp only [doReadRxPayload, e, h, storeBuf, reportOk]; rfl⟩

/-! The reference slave -/

/-- What the reference slave answers to a frame's data bytes (R81). -/
def RefSlave.answers (c : Config) (r : RefSlave) (cmd : Byte) (n : Nat) : List Byte :=
  (List.range n).map (r.dataByte c cmd)

/-- The reference slave after a whole frame (R81). -/
def RefSlave.after (c : Config) (r : RefSlave) (cmd : Byte) (tx : List Byte) : RefSlave :=
  { ({ r with frame := cmd :: tx } : RefSlave).commit c with frame := [] }

theorem Slave.gives_data (c : Config) (r : RefSlave) (cmd : Byte) (pre tx : List Byte) :
    (Slave.reference { r with frame := cmd :: pre }).Gives c tx
      ((List.range' pre.length tx.length).map (r.dataByte c cmd)) (.reference { r with frame := cmd :: (pre ++ tx) }) := by
  induction tx generalizing pre with
  | nil => simp [Slave.Gives]
  | cons m tx ih =>
    refine ⟨.reference { r with frame := cmd :: (pre ++ [m]) }, fun _ => rfl, ?_⟩
    have := ih (pre ++ [m])
    simpa using this

/-- A whole transaction with the reference slave (R81): the status byte first, then its data bytes, then its state change. -/
theorem transact_reference (cmd : Byte) (tx : List Byte) (r : RefSlave) (d : Dir) (s : State)
    (hs : s.slave = .reference r) :
    transact cmd tx d s = (r.st, r.answers s.cfg cmd tx.length,
      s.afterFrame cmd d r.st (tx.zip (r.answers s.cfg cmd tx.length)) (.reference (r.after s.cfg cmd tx))) := by
  refine transact_of d s (sl := .reference { r with frame := cmd :: tx }) ?_
  rw [hs]
  refine ⟨.reference { r with frame := [cmd] }, fun _ => rfl, ?_⟩
  have := Slave.gives_data s.cfg r cmd [] tx
  rwa [List.length_nil, ← List.range_eq_range'] at this

/-! Its command bytes (R91), when the parameters are as R91 requires -/

theorem clearBits_or {x a m : Byte} (hx : x &&& m = 0#8) (ha : clearBits a m = 0#8) : clearBits (x ||| a) m = x := by
  unfold clearBits at *
  apply BitVec.eq_of_getLsbD_eq
  intro j hj
  have h1 := congrArg (fun b : Byte => b.getLsbD j) hx
  have h2 := congrArg (fun b : Byte => b.getLsbD j) ha
  simp [hj] at h1 h2 ⊢
  revert h1 h2
  cases x[j] <;> cases a[j] <;> cases m[j] <;> simp

theorem or_and_mask {x a m : Byte} (hx : x &&& m = 0#8) (ha : clearBits a m = 0#8) : (x ||| a) &&& m = a := by
  unfold clearBits at *
  apply BitVec.eq_of_getLsbD_eq
  intro j hj
  have h1 := congrArg (fun b : Byte => b.getLsbD j) hx
  have h2 := congrArg (fun b : Byte => b.getLsbD j) ha
  simp [hj] at h1 h2 ⊢
  revert h1 h2
  cases x[j] <;> cases a[j] <;> cases m[j] <;> simp

theorem RefSlave.after_read {c : Config} (hc : c.Ok) (r : RefSlave) {a : Byte} (ha : clearBits a c.addrMask = 0#8)
    (tx : List Byte) : r.after c (c.opcRRegister ||| a) tx = { r with frame := [] } := by
  simp [RefSlave.after, RefSlave.commit, clearBits_or hc.read_clear ha]

theorem RefSlave.after_write {c : Config} (hc : c.Ok) (r : RefSlave) {a : Byte} (ha : clearBits a c.addrMask = 0#8)
    (tx : List Byte) :
    r.after c (c.opcWRegister ||| a) tx = { r.writeReg c a tx with frame := [] } := by
  simp only [RefSlave.after, RefSlave.commit, clearBits_or hc.write_clear ha, or_and_mask hc.write_clear ha,
    hc.read_ne_write.symm, if_false, if_true]
  unfold RefSlave.writeReg
  split
  · split <;> rfl
  · split <;> rfl

/-- What a register read answers: the register's bytes (R81). -/
theorem RefSlave.answers_read {c : Config} (hc : c.Ok) (r : RefSlave) {a : Byte} (ha : clearBits a c.addrMask = 0#8)
    (n : Nat) : r.answers c (c.opcRRegister ||| a) n = (List.range n).map (r.regByte c a) := by
  unfold RefSlave.answers RefSlave.dataByte
  simp only [clearBits_or hc.read_clear ha, or_and_mask hc.read_clear ha, if_true]

theorem RefSlave.after_nop {c : Config} (hc : c.Ok) (r : RefSlave) (tx : List Byte) :
    r.after c c.opcNop tx = { r with frame := [] } := by
  have h := hc.fixed_not_register c.opcNop (by simp [Config.fixedCommands])
  have hn := hc.fixed_nodup
  simp [Config.fixedCommands] at hn
  simp [RefSlave.after, RefSlave.commit, h]
  grind

theorem RefSlave.after_flushTx {c : Config} (hc : c.Ok) (r : RefSlave) (tx : List Byte) :
    r.after c c.opcFlushTx tx = { r with txf := [], frame := [] } := by
  have h := hc.fixed_not_register c.opcFlushTx (by simp [Config.fixedCommands])
  have hn := hc.fixed_nodup
  simp [Config.fixedCommands] at hn
  simp [RefSlave.after, RefSlave.commit, h]
  grind

theorem RefSlave.after_flushRx {c : Config} (hc : c.Ok) (r : RefSlave) (tx : List Byte) :
    r.after c c.opcFlushRx tx = { r with rxf := [], frame := [] } := by
  have h := hc.fixed_not_register c.opcFlushRx (by simp [Config.fixedCommands])
  have hn := hc.fixed_nodup
  simp [Config.fixedCommands] at hn
  simp [RefSlave.after, RefSlave.commit, h]
  grind

theorem RefSlave.after_writeTx {c : Config} (hc : c.Ok) (r : RefSlave) (tx : List Byte) :
    r.after c c.opcWTxPayload tx = { r with txf := r.txf ++ [tx], frame := [] } := by
  have h := hc.fixed_not_register c.opcWTxPayload (by simp [Config.fixedCommands])
  have hn := hc.fixed_nodup
  simp [Config.fixedCommands] at hn
  simp [RefSlave.after, RefSlave.commit, h]
  grind

theorem RefSlave.after_readRx {c : Config} (hc : c.Ok) (r : RefSlave) (tx : List Byte) :
    r.after c c.opcRRxPayload tx = { r with rxf := r.rxf.tail, frame := [] } := by
  have h := hc.fixed_not_register c.opcRRxPayload (by simp [Config.fixedCommands])
  simp [RefSlave.after, RefSlave.commit, h]

theorem RefSlave.answers_readRx {c : Config} (hc : c.Ok) (r : RefSlave) (n : Nat) :
    r.answers c c.opcRRxPayload n = (List.range n).map fun i => (r.rxf.headD []).getD i 0#8 := by
  have h := hc.fixed_not_register c.opcRRxPayload (by simp [Config.fixedCommands])
  unfold RefSlave.answers RefSlave.dataByte
  simp [h]

/-! Its registers -/

/-- A register write reads back (R71), in a register that is not one of the three with rules of their own. -/
theorem RefSlave.regByte_writeReg {c : Config} (r : RefSlave) {a : Byte} {tx : List Byte} (h1 : a ≠ c.regStatus)
    (h2 : a ≠ c.regFifoStatus) (h3 : a ≠ c.regObserveTx) (hl : a.toNat < r.regs.length)
    (hn : (r.regs.getD a.toNat []).length = tx.length) (i : Nat) :
    (r.writeReg c a tx).regByte c a i = tx.getD i 0#8 := by
  simp [RefSlave.writeReg, RefSlave.regByte, h1, h2, h3, overwrite]
  simp only [List.getElem?_eq_getElem hl, List.getD_eq_getElem?_getD, Option.getD_some] at hn
  simp [hn, hl, List.drop_eq_nil_of_le (Nat.le_of_eq hn)]

/-- A write to one register leaves every other one, REG_STATUS apart. -/
theorem RefSlave.regByte_writeReg_other {c : Config} (r : RefSlave) {a b : Byte} (tx : List Byte) (h : a ≠ b)
    (hb : b ≠ c.regStatus) (i : Nat) : (r.writeReg c a tx).regByte c b i = r.regByte c b i := by
  have hn : a.toNat ≠ b.toNat := fun e => h (BitVec.eq_of_toNat_eq e)
  unfold RefSlave.writeReg
  split
  · split <;> simp [RefSlave.regByte, hb]
  · split
    · rfl
    · simp [RefSlave.regByte, hb, hn]

/-- A register write keeps the shape of the registers (R80). -/
theorem RefSlave.shaped_writeReg {c : Config} {r : RefSlave} (hr : r.Shaped c) (a : Byte) (tx : List Byte) :
    (r.writeReg c a tx).Shaped c := by
  unfold RefSlave.writeReg
  split
  · split <;> exact hr
  · split
    · exact hr
    · obtain ⟨h1, h2⟩ := hr
      refine ⟨by simpa using h1, fun b hb => ?_⟩
      have hb' : b < r.regs.length := by simpa using hb
      rw [← h2 b hb']
      by_cases hab : a.toNat = b
      · subst hab
        simp [overwrite, hb']
        omega
      · simp [hab]

/-! The commands of a frame or two, with the reference slave -/

theorem readBufFrom_tx (n : Nat) (s : State) :
    ∃ tx k, s.sendsBuf n tx ∧ readBufFrom 0 n s = (tx, { s with draws := k }) := by
  obtain ⟨tx, h, e⟩ := readBufFrom_next n s
  exact ⟨tx, _, h, e⟩

/-- WRITE_REG past its refusal (R132). -/
theorem doWriteReg_reference {s : State} {r : RefSlave} (hc : s.cfg.Ok) (hs : s.slave = .reference r) {a : Byte}
    (ha : clearBits a s.cfg.addrMask = 0#8) (v : Byte) :
    ∃ b, doWriteReg a v s =
      { s.afterFrame (s.cfg.opcWRegister ||| a) .send r.st [(v, b)]
          (.reference { r.writeReg s.cfg a [v] with frame := [] }) with resErr := false } := by
  have h := transact_reference (s.cfg.opcWRegister ||| a) [v] r .send s hs
  rw [RefSlave.after_write hc r ha] at h
  exact ⟨_, by simp only [doWriteReg, memWrite, writeCommand, h, reportOk]; rfl⟩

/-- A one-byte register read (R131). -/
theorem memReadByte_reference {s : State} {r : RefSlave} (hc : s.cfg.Ok) (hs : s.slave = .reference r) {a : Byte}
    (ha : clearBits a s.cfg.addrMask = 0#8) :
    memReadByte a s = (r.regByte s.cfg a 0,
      s.afterFrame (s.cfg.opcRRegister ||| a) .recv r.st [(s.cfg.dummyByte, r.regByte s.cfg a 0)]
        (.reference { r with frame := [] })) := by
  have h := transact_reference (s.cfg.opcRRegister ||| a) [s.cfg.dummyByte] r .recv s hs
  rw [RefSlave.after_read hc r ha, RefSlave.answers_read hc r ha] at h
  simp only [memReadByte, memRead, readCommand, List.replicate_one, h]
  rfl

/-- READ_REG_MULTI past its refusals (R133). -/
theorem doReadRegMulti_reference {s : State} {r : RefSlave} (hc : s.cfg.Ok) (hs : s.slave = .reference r) {a : Byte}
    (ha : clearBits a s.cfg.addrMask = 0#8) (n : Nat) :
    (doReadRegMulti a n s).buf = s.buf.writeFrom 0 ((List.range n).map (r.regByte s.cfg a)) := by
  have h := transact_reference (s.cfg.opcRRegister ||| a) (List.replicate n s.cfg.dummyByte) r .recv s hs
  rw [RefSlave.answers_read hc r ha, List.length_replicate] at h
  simp only [doReadRegMulti, memRead, readCommand, h, storeBuf, reportOk]
  rfl

/-- WRITE_REG_MULTI past its refusals (R134). -/
theorem doWriteRegMulti_reference {s : State} {r : RefSlave} (hc : s.cfg.Ok) (hs : s.slave = .reference r) {a : Byte}
    (ha : clearBits a s.cfg.addrMask = 0#8) (n : Nat) :
    ∃ tx, s.sendsBuf n tx ∧
      (doWriteRegMulti a n s).slave = .reference { r.writeReg s.cfg a tx with frame := [] } ∧
      (doWriteRegMulti a n s).buf = s.buf ∧ (doWriteRegMulti a n s).cfg = s.cfg := by
  obtain ⟨tx, k, htx, e⟩ := readBufFrom_tx n s
  have h := transact_reference (s.cfg.opcWRegister ||| a) tx r .send { s with draws := k } hs
  rw [RefSlave.after_write hc r ha] at h
  refine ⟨tx, htx, ?_⟩
  simp only [doWriteRegMulti, memWrite, writeCommand, e, h, reportOk]
  exact ⟨rfl, rfl, rfl⟩

/-- A command byte alone. -/
theorem commandOnly_reference {s : State} {r : RefSlave} (hs : s.slave = .reference r) (cmd : Byte) :
    commandOnly cmd s = (r.st, s.afterFrame cmd .send r.st [] (.reference (r.after s.cfg cmd []))) := by
  simp only [commandOnly, transact_reference cmd [] r .send s hs, List.zip_nil_left]

/-! Several commands in a row, with the reference slave -/

/-- The controller has the parameters `c`, and the slave is the reference slave in the state `r`. -/
structure Tracks (c : Config) (s : State) (r : RefSlave) : Prop where
  cfg : s.cfg = c
  ok : c.Ok
  slave : s.slave = .reference r
  shaped : r.Shaped c

theorem Tracks.keep {c : Config} {s t : State} {r : RefSlave} (h : Tracks c s r) (h₁ : t.cfg = s.cfg)
    (h₂ : t.slave = s.slave) : Tracks c t r :=
  ⟨h₁.trans h.cfg, h.ok, h₂.trans h.slave, h.shaped⟩

theorem Tracks.writeReg {c : Config} {s : State} {r : RefSlave} (h : Tracks c s r) {a : Byte} (ha : a ∈ c.regAddrs)
    (v : Byte) : Tracks c (doWriteReg a v s) { r.writeReg c a [v] with frame := [] } := by
  obtain ⟨rfl, hok, hs, hr⟩ := h
  obtain ⟨b, e⟩ := doWriteReg_reference hok hs (hok.regs_in_mask a ha) v
  rw [e]
  exact ⟨rfl, hok, rfl, RefSlave.shaped_writeReg hr a [v]⟩

theorem Tracks.writeRegMulti {c : Config} {s : State} {r : RefSlave} (h : Tracks c s r) {a : Byte} (ha : a ∈ c.regAddrs)
    (n : Nat) : ∃ tx, s.sendsBuf n tx ∧ (doWriteRegMulti a n s).buf = s.buf ∧
      Tracks c (doWriteRegMulti a n s) { r.writeReg c a tx with frame := [] } := by
  obtain ⟨rfl, hok, hs, hr⟩ := h
  obtain ⟨tx, htx, e₁, e₂, e₃⟩ := doWriteRegMulti_reference hok hs (hok.regs_in_mask a ha) n
  exact ⟨tx, htx, e₂, e₃, hok, e₁, RefSlave.shaped_writeReg hr a tx⟩

theorem Tracks.flushTx {c : Config} {s : State} {r : RefSlave} (h : Tracks c s r) :
    Tracks c (doFlushTx s) { r with txf := [], frame := [] } := by
  obtain ⟨rfl, hok, hs, hr⟩ := h
  simp only [doFlushTx, commandOnly_reference hs, RefSlave.after_flushTx hok, reportOk]
  exact ⟨rfl, hok, rfl, hr⟩

theorem Tracks.flushRx {c : Config} {s : State} {r : RefSlave} (h : Tracks c s r) :
    Tracks c (doFlushRx s) { r with rxf := [], frame := [] } := by
  obtain ⟨rfl, hok, hs, hr⟩ := h
  simp only [doFlushRx, commandOnly_reference hs, RefSlave.after_flushRx hok, reportOk]
  exact ⟨rfl, hok, rfl, hr⟩

theorem Tracks.writeTx {c : Config} {s : State} {r : RefSlave} (h : Tracks c s r) :
    ∃ tx, s.sendsBuf s.payloadSize.toNat tx ∧
      Tracks c (doWriteTxPayload s) { r with txf := r.txf ++ [tx], frame := [] } := by
  obtain ⟨rfl, hok, hs, hr⟩ := h
  obtain ⟨tx, k, htx, e⟩ := readBufFrom_tx s.payloadSize.toNat s
  have h' := transact_reference s.cfg.opcWTxPayload tx r .send { s with draws := k } hs
  rw [RefSlave.after_writeTx hok] at h'
  refine ⟨tx, htx, ?_⟩
  simp only [doWriteTxPayload, e, h', reportOk]
  exact ⟨rfl, hok, rfl, hr⟩

/-- The address of a register is an index of the reference slave's list (R80). -/
theorem clearBits_zero_le {a m : Byte} (h : clearBits a m = 0#8) : a.toNat ≤ m.toNat := by
  have := or_and_mask (x := 0#8) (by simp) h
  rw [BitVec.zero_or] at this
  rw [← this, BitVec.toNat_and]
  exact Nat.and_le_right

/-- A one-byte register that is none of the five with a rule or a length of its own. -/
def PlainRegister (c : Config) (a : Byte) : Prop :=
  a ∈ c.regAddrs ∧ a ≠ c.regStatus ∧ a ≠ c.regFifoStatus ∧ a ≠ c.regObserveTx ∧ a ≠ c.regRxAddrP0 ∧ a ≠ c.regTxAddr

theorem plain_regConfig {c : Config} (h : c.Ok) : PlainRegister c c.regConfig := by
  have := h.regs_nodup
  simp [Config.regAddrs, List.nodup_append] at this
  refine ⟨by simp [Config.regAddrs], ?_⟩
  grind

theorem plain_regRxPw {c : Config} (h : c.Ok) {a : Byte} (ha : a ∈ c.regRxPw) : PlainRegister c a := by
  have := h.regs_nodup
  simp [Config.regAddrs, List.nodup_append] at this
  refine ⟨by simp [Config.regAddrs, ha], ?_⟩
  grind

/-- A byte written to a plain register is the byte it holds (R71, R72). -/
theorem Tracks.byte_same {c : Config} {s : State} {r : RefSlave} (h : Tracks c s r) {a : Byte} (ha : PlainRegister c a) (v : Byte) :
    ({ r.writeReg c a [v] with frame := [] } : RefSlave).regByte c a 0 = v := by
  obtain ⟨hm, h1, h2, h3, h4, h5⟩ := ha
  have hl : a.toNat < r.regs.length := by
    rw [h.shaped.1]
    exact Nat.lt_succ_of_le (clearBits_zero_le (h.ok.regs_in_mask a hm))
  refine RefSlave.regByte_writeReg (c := c) r (tx := [v]) h1 h2 h3 hl ?_ 0
  rw [h.shaped.2 _ hl, if_neg]
  · rfl
  · rintro (e | e)
    · exact h4 (BitVec.eq_of_toNat_eq e)
    · exact h5 (BitVec.eq_of_toNat_eq e)

theorem Tracks.pipeWidths {c : Config} {s : State} {r : RefSlave} (as : List Byte) (h : Tracks c s r)
    (hp : ∀ a ∈ as, PlainRegister c a) :
    ∃ r', Tracks c (writePipeWidths as s) r' ∧ (∀ a ∈ as, r'.regByte c a 0 = payloadByte s.payloadSize) ∧
      (∀ b, b ∉ as → b ≠ c.regStatus → r'.regByte c b 0 = r.regByte c b 0) := by
  induction as generalizing s r with
  | nil => exact ⟨r, h, by simp, fun _ _ _ => rfl⟩
  | cons a as ih =>
    have ha := hp a (by simp)
    have h1 := h.writeReg ha.1 (payloadByte s.payloadSize)
    obtain ⟨r', t', w, o⟩ := ih h1 (fun b hb => hp b (by simp [hb]))
    refine ⟨r', t', ?_, ?_⟩
    · intro b hb
      rw [doWriteReg_payloadSize] at w
      by_cases hba : b ∈ as
      · exact w b hba
      · have : b = a := by simpa [hba] using hb
        subst this
        rw [o _ hba ha.2.1]; exact h.byte_same ha _
    · intro b hb hs
      simp at hb
      rw [o b hb.2 hs]
      exact RefSlave.regByte_writeReg_other r _ (Ne.symm hb.1) hs 0

theorem Tracks.setRfParameters {c : Config} {s : State} {r : RefSlave} (h : Tracks c s r) (rate : DataRate) (p : TxPower) :
    ∃ r', Tracks c (doSetRfParameters rate p s) r' := by
  have m : c.regRfSetup ∈ c.regAddrs := by simp [Config.regAddrs]
  unfold doSetRfParameters
  rw [h.cfg]
  exact ⟨_, (h.writeReg m (rfSetup c rate p)).keep rfl rfl⟩

theorem Tracks.initRegisters {c : Config} {s : State} {r : RefSlave} (h : Tracks c s r) :
    ∃ r', Tracks c (initRegisters s) r' := by
  have mem : ∀ a ∈ [c.regConfig, c.regSetupRetr, c.regRfCh, c.regRfSetup, c.regStatus, c.regDynpd, c.regFeature],
      a ∈ c.regAddrs := by
    simp [Config.regAddrs]
  unfold Machine.initRegisters
  rw [h.cfg]
  have h1 := h.writeReg (mem c.regConfig (by simp)) c.cfgBase
  have h2 := h1.writeReg (mem c.regSetupRetr (by simp)) c.retrValue
  obtain ⟨r4, h4⟩ := Tracks.setRfParameters h2 _ _
  have h5 := h4.writeReg (mem c.regDynpd (by simp)) c.dynpdOff
  have h6 := h5.writeReg (mem c.regFeature (by simp)) c.featureOff
  have h7 := h6.writeReg (mem c.regStatus (by simp)) c.clrAll
  exact ⟨_, h7⟩

theorem Tracks.setChannel {c : Config} {s : State} {r : RefSlave} (h : Tracks c s r) (ch : Byte) :
    ∃ r', Tracks c (doSetChannel ch s) r' := by
  have m : c.regRfCh ∈ c.regAddrs := by simp [Config.regAddrs]
  unfold doSetChannel
  rw [h.cfg]
  split
  · exact ⟨_, (h.writeReg m ch).keep rfl rfl⟩
  · exact ⟨_, (h.writeReg m c.chFallback).keep rfl rfl⟩

/-- INITIALIZE past its refusals leaves CFG_TX in REG_CONFIG (R171 step 11). -/
theorem Tracks.initialize_config {c : Config} {s : State} {r : RefSlave} (h : Tracks c s r) (ch p : Byte) :
    ∃ r', Tracks c (doInitialize ch p s) r' ∧ r'.regByte c c.regConfig 0 = c.cfgTx := by
  have hpl := plain_regConfig h.ok
  rw [doInitialize_eq]
  have h₀ : Tracks c ({ s with
      payloadSize := clampPayload s.cfg p, initDone := true, channelCache := s.cfg.chSentinel, ce := false
      trace := s.trace ++ [.ce false, .wait (.ms s.cfg.tSettleMs)], resErr := false }) r := h.keep rfl rfl
  obtain ⟨_, h₁⟩ := h₀.initRegisters
  obtain ⟨_, h₂⟩ := h₁.setChannel ch
  revert h₂
  generalize doSetChannel ch _ = m
  intro h₂
  obtain ⟨r₃, h₃, -, -⟩ := h₂.flushTx.flushRx.pipeWidths (m.cfg.regRxPw.take m.cfg.nPipes) fun a ha =>
    plain_regRxPw h.ok (by rw [h₂.cfg] at ha; exact List.mem_of_mem_take ha)
  refine ⟨_, (h₃.writeReg hpl.1 c.cfgTx).keep ?_ ?_, h₃.byte_same hpl c.cfgTx⟩ <;>
    simp only [initFinish, doPowerUpTx_eq, h₃.cfg]

end Sys2Proof.Machine
end

