-- ==== Sys2Proof/Tests/Slice0.lean ====
section
/-! SUPPORT. Tests. Every expected value is written out from spec/: the words from spec/30_encoding.md R93 to R97, and the event lists and
results from the vectors of spec/95_test_vectors.md, each named at its test. Then a witness for the hypotheses of every
statement of Sys2Proof/Certificates/Slice0/Obligations.lean. -/

namespace Sys2Proof.Tests

open Sys2Proof.Machine

/-! Helpers -/

/-- The reference slave in its start state (R80). -/
def fresh : RefSlave := RefSlave.start Config.default

/-- It with another status byte. -/
def withSt (st : Byte) : RefSlave := { fresh with st := st }

/-- It with another register content. -/
def withReg (a : Nat) (v : List Byte) : RefSlave := { fresh with regs := fresh.regs.set a v }

/-- The reset controller in front of the slave `r`. -/
def bench (r : RefSlave) : State := { State.reset with slave := .reference r }

/-- The same, initialised with PAYLOAD_SIZE = 4 and BUF[0..] = `bs`. -/
def inited (r : RefSlave) (bs : List Byte) : State :=
  { bench r with initDone := true, payloadSize := 4#6, buf := Memory.writeFrom [] 0 bs }

/-- The events of one frame under the defaults, whose chip-select delays are 0. -/
def frame (c st : Byte) (io : List (Byte × Byte)) : List Event :=
  [.csn false, .xfer c st] ++ io.map (fun p => .xfer p.1 p.2) ++ [.csn true]

/-- One step with one word on the command port, seen through `f`. -/
def run {α : Type} (w : CommandWord) (s : State) (f : State → α) : Option α :=
  match step { s with inputs := [.command w] } with
  | .next t => some (f t)
  | .fault _ => none
  | .refused _ => none

/-- The refusal of one word. -/
def refusal (w : CommandWord) (s : State) : Option Refusal :=
  match step { s with inputs := [.command w] } with
  | .next _ => none
  | .fault _ => none
  | .refused r => some r

/-- A register of the slave, the slave's status byte, its FIFOs. -/
def reg (a : Nat) (s : State) : List Byte :=
  match s.slave with
  | .oracle _ _ => []
  | .reference r => r.regs.getD a []
def slaveSt (s : State) : Byte :=
  match s.slave with
  | .oracle _ _ => 0#8
  | .reference r => r.st
def txFifo (s : State) : List (List Byte) :=
  match s.slave with
  | .oracle _ _ => []
  | .reference r => r.txf
def rxFifo (s : State) : List (List Byte) :=
  match s.slave with
  | .oracle _ _ => []
  | .reference r => r.rxf

/-! Decoding: each row of R97, a word of R93 to R96 written out field by field -/

theorem test_decode_transact : decodeTableWord 32 0x010A0501 = some (.transact 0x0A 5 (some .recv)) := by decide
theorem test_decode_transact_reserved : decodeTableWord 32 0x01FF0103 = some (.transact 0xFF 1 none) := by decide
theorem test_decode_transact_ignored : decodeTableWord 32 0x0161040E = some (.transact 0x61 4 (some .duplex)) := by decide
theorem test_decode_getStatus : decodeTableWord 32 0x02ABCDEF = some .getStatus := by decide
theorem test_decode_readReg : decodeTableWord 32 0x10050000 = some (.readReg 0x05) := by decide
theorem test_decode_writeReg : decodeTableWord 32 0x11077000 = some (.writeReg 0x07 0x70) := by decide
theorem test_decode_readRegMulti : decodeTableWord 32 0x120A0500 = some (.readRegMulti 0x0A 5) := by decide
theorem test_decode_writeRegMulti : decodeTableWord 32 0x13100500 = some (.writeRegMulti 0x10 5) := by decide
theorem test_decode_readBit : decodeTableWord 32 0x14000F00 = some (.readBit 0x00 7) := by decide
theorem test_decode_writeBit : decodeTableWord 32 0x15000101 = some (.writeBit 0x00 1 true) := by decide
theorem test_decode_writeTxPayload : decodeTableWord 32 0x20000000 = some .writeTxPayload := by decide
theorem test_decode_readRxPayload : decodeTableWord 32 0x21000000 = some .readRxPayload := by decide
theorem test_decode_flushTx : decodeTableWord 32 0x22000000 = some .flushTx := by decide
theorem test_decode_flushRx : decodeTableWord 32 0x23000000 = some .flushRx := by decide
theorem test_decode_getTxStatus : decodeTableWord 32 0x30000000 = some .getTxStatus := by decide
theorem test_decode_isDataReady : decodeTableWord 32 0x31000000 = some .isDataReady := by decide
theorem test_decode_getRetxCount : decodeTableWord 32 0x32000000 = some .getRetxCount := by decide
theorem test_decode_ceSet : decodeTableWord 32 0x400000FE = some (.ceSet false) := by decide
theorem test_decode_delayMs : decodeTableWord 32 0x4100012C = some (.delayMs 300) := by decide
theorem test_decode_bufWrite : decodeTableWord 32 0x421F5A00 = some (.bufWrite 31 0x5A) := by decide
theorem test_decode_bufRead : decodeTableWord 32 0x43030000 = some (.bufRead 3) := by decide
theorem test_decode_initController : decodeTableWord 32 0x500A1400 = some (.initController 10 20) := by decide
theorem test_decode_setChannel : decodeTableWord 32 0x517D0000 = some (.setChannel 125) := by decide
theorem test_decode_setAddress : decodeTableWord 32 0x52000001 = some (.setAddress true) := by decide
theorem test_decode_setRfParameters :
    decodeTableWord 32 0x5306FF00 = some (.setRfParameters (some .dr250K) .pwr3) := by decide
theorem test_decode_powerUpTx : decodeTableWord 32 0x60000000 = some .powerUpTx := by decide
theorem test_decode_transmit : decodeTableWord 32 0x61000000 = some .transmit := by decide
theorem test_decode_powerUpRx : decodeTableWord 32 0x62000000 = some .powerUpRx := by decide
theorem test_decode_getPayload : decodeTableWord 32 0x63000000 = some .getPayload := by decide
theorem test_decode_powerDown : decodeTableWord 32 0x64000000 = some .powerDown := by decide
/-- V30-1. -/
theorem test_decode_reserved :
    [0x00000000, 0x03000000, 0x16000000, 0x24000000, 0x33000000, 0x44000000, 0x54000000, 0x65000000,
      0xFFFFFFFF].map (decodeTableWord 32) = List.replicate 9 none := by decide

/-! Encoding -/

theorem test_encode :
    [Instr.delayMs 300, .writeBit 0x00 7 true, .setRfParameters (some .dr2M) .pwr3, .transact 0x61 4 (some .duplex)].map encode =
      [0x4100012C, 0x15000701, 0x53010300, 0x01610402] := by decide

/-! Well-formedness: an ill-formed command for each check (R99, R100, R104), and the nearest legal one -/

theorem test_wf_reserved_dir : (Instr.transact 0xFF 1 none).wellFormed Config.default = false := by decide
theorem test_wf_length : (Instr.transact 0xA0 33 (some .send)).wellFormed Config.default = false := by decide
theorem test_wf_address : (Instr.readReg 0x20).wellFormed Config.default = false := by decide
theorem test_wf_write_address : (Instr.writeReg 0xFF 0).wellFormed Config.default = false := by decide
theorem test_wf_multi_address : (Instr.writeRegMulti 0x30 5).wellFormed Config.default = false := by decide
theorem test_wf_count : (Instr.readRegMulti 0x0A 33).wellFormed Config.default = false := by decide
theorem test_wf_bit_address : (Instr.writeBit 0x40 0 true).wellFormed Config.default = false := by decide
theorem test_wf_index : (Instr.bufWrite 32 0x5A).wellFormed Config.default = false := by decide
theorem test_wf_read_index : (Instr.bufRead 32).wellFormed Config.default = false := by decide
theorem test_wf_payload_zero : (Instr.initController 10 0).wellFormed Config.default = false := by decide
theorem test_wf_reserved_rate : (Instr.setRfParameters none .pwr0).wellFormed Config.default = false := by decide
theorem test_wf_sequence_layer : Instr.powerUpTx.wellFormed { Config.default with seqPresent := false } = false := by decide
theorem test_wf_legal :
    [Instr.transact 0xA0 32 (some .send), .readReg 0x1F, .readRegMulti 0x0A 32, .bufWrite 31 0x5A, .bufRead 31,
      .initController 255 1, .setRfParameters (some .dr250K) .pwr3].all (Instr.wellFormed Config.default) = true := by decide

/-! The engine -/

/-- V40-4. -/
theorem test_transact_duplex :
    run 0x01610402 { inited { withSt 0x42 with rxf := [[1, 2, 3, 4]] } [0xAA, 0xBB, 0xCC, 0xDD] with initDone := false }
      (fun t => (t.trace, t.buf, t.statusLatch, rxFifo t)) =
    some (frame 0x61 0x42 [(0xAA, 1), (0xBB, 2), (0xCC, 3), (0xDD, 4)], [(0, 1), (1, 2), (2, 3), (3, 4)], 0x42, []) := by decide

/-- V40-7, V40-8. -/
theorem test_transact_refusals :
    [refusal 0x01A02100 (bench fresh), refusal 0x01FF0103 (bench fresh)] =
      [some .lengthOutOfRange, some .reservedOperand] := by decide

/-! Register access -/

/-- V41-1. -/
theorem test_readReg :
    run 0x10050000 (bench (withReg 5 [0x0A])) (fun t => (t.trace, t.resData, t.statusLatch)) =
      some (frame 0x05 0x0E [(0xFF, 0x0A)], 0x0A, 0x0E) := by decide

/-- V41-7. -/
theorem test_writeReg_status :
    run 0x11074000 (bench (withSt 0x6E)) (fun t => (t.trace, slaveSt t, t.statusLatch)) =
      some (frame 0x27 0x6E [(0x40, 0)], 0x2E, 0x6E) := by decide

/-- V41-3. -/
theorem test_readReg_refused : refusal 0x10200000 (bench fresh) = some .addressOutOfRange := by decide

/-- V41-12. -/
theorem test_readRegMulti :
    run 0x12050300 (bench (withReg 5 [0x28])) (fun t => (t.trace, t.buf)) =
      some (frame 0x05 0x0E [(0xFF, 0x28), (0xFF, 0), (0xFF, 0)], [(0, 0x28), (1, 0), (2, 0)]) := by decide

/-- V41-14. -/
theorem test_writeRegMulti :
    run 0x13100500 (inited fresh [0x11, 0x22, 0x33, 0x44, 0x55]) (fun t => (t.trace, reg 0x10 t)) =
      some (frame 0x30 0x0E [(0x11, 0), (0x22, 0), (0x33, 0), (0x44, 0), (0x55, 0)], [0x11, 0x22, 0x33, 0x44, 0x55]) := by
  decide

/-- V41-18, V41-19. -/
theorem test_readBit :
    [run 0x14000200 (bench (withReg 0 [0x0A])) (fun t => (t.resData, t.resFlag)),
      run 0x14000F00 (bench (withReg 0 [0x80])) (fun t => (t.resData, t.resFlag))] =
    [some (0x0A, false), some (0x80, true)] := by decide

/-- V41-24. -/
theorem test_writeBit_status :
    run 0x15070000 (bench (withSt 0x4E)) (fun t => (t.trace, slaveSt t)) =
      some (frame 0x07 0x4E [(0xFF, 0x4E)] ++ frame 0x27 0x4E [(0x4E, 0)], 0x0E) := by decide

/-- V41-20. -/
theorem test_writeBit :
    run 0x15000101 (bench (withReg 0 [0x08])) (fun t => (reg 0 t, t.resData)) = some ([0x0A], 0x0A) := by decide

/-! Payloads and FIFOs -/

/-- V42-2. -/
theorem test_writeTxPayload :
    run 0x20000000 (inited fresh [0xDE, 0xAD, 0xBE, 0xEF, 0x99]) (fun t => (t.trace, txFifo t)) =
      some (frame 0xA0 0x0E [(0xDE, 0), (0xAD, 0), (0xBE, 0), (0xEF, 0)], [[0xDE, 0xAD, 0xBE, 0xEF]]) := by decide

/-- V42-1, V42-6. -/
theorem test_payload_refused :
    [refusal 0x20000000 (bench fresh), refusal 0x21000000 (bench fresh)] =
      [some .notInitialized, some .notInitialized] := by decide

/-- V42-4. -/
theorem test_readRxPayload :
    run 0x21000000 (inited { withSt 0x42 with rxf := [[1, 2]] } [0xA0, 0xA1, 0xA2, 0xA3])
      (fun t => (t.trace, t.buf, rxFifo t, slaveSt t)) =
    some (frame 0x61 0x42 [(0xA0, 1), (0xA1, 2), (0xA2, 0), (0xA3, 0)], [(0, 1), (1, 2), (2, 0), (3, 0)], [], 0x42) := by
  decide

/-- V42-7. -/
theorem test_flushTx :
    run 0x22000000 (bench { fresh with txf := [[1], [2]] }) (fun t => (t.trace, txFifo t)) =
      some (frame 0xE1 0x0E [], []) := by decide

/-- V42-8. -/
theorem test_flushRx :
    run 0x23000000 (bench { withSt 0x40 with rxf := [[1]] }) (fun t => (t.trace, rxFifo t, slaveSt t)) =
      some (frame 0xE2 0x40 [], [], 0x40) := by decide

/-! Status -/

/-- V43-1, six of its rows. -/
theorem test_decodeStatus :
    [0x4A, 0x2E, 0x1E, 0x30, 0x81, 0x70].map (fun b => (decodeStatus Config.default b, txOutcome Config.default b)) =
      [(⟨true, false, false, 5⟩, .sending), (⟨false, true, false, 7⟩, .ok), (⟨false, false, true, 7⟩, .lost),
        (⟨false, true, true, 0⟩, .ok), (⟨false, false, false, 0⟩, .sending), (⟨true, true, true, 0⟩, .ok)] := by decide

/-- V43-2. -/
theorem test_getStatus :
    run 0x02000000 (bench (withSt 0x2E)) (fun t => (t.trace, t.resData, t.statusLatch)) =
      some (frame 0xFF 0x2E [], 0x2E, 0x2E) := by decide

/-- V43-5 to V43-8. -/
theorem test_getTxStatus :
    [0x0E, 0x1E, 0x2E, 0x3E].map (fun st => run 0x30000000 (bench (withSt st)) (fun t => (t.resData, t.resCode))) =
      [some (0x0E, 0), some (0x1E, 2), some (0x2E, 1), some (0x3E, 1)] := by decide

/-- V43-10. -/
theorem test_isDataReady_bit :
    run 0x31000000 (bench (withSt 0x40)) (fun t => (t.trace, t.resFlag)) = some (frame 0xFF 0x40 [], true) := by decide

/-- V43-11, V43-12. -/
theorem test_isDataReady_fifo :
    [run 0x31000000 (bench { fresh with rxf := [[1]] }) (fun t => (t.trace, t.resFlag)),
      run 0x31000000 (bench fresh) (fun t => (t.trace, t.resFlag))] =
    [some (frame 0xFF 0x0E [] ++ frame 0x17 0x0E [(0xFF, 0)], true),
      some (frame 0xFF 0x0E [] ++ frame 0x17 0x0E [(0xFF, 1)], false)] := by decide

/-- V43-14, V43-15. -/
theorem test_getRetxCount :
    [run 0x32000000 (bench (withReg 8 [0x2F])) State.resData, run 0x32000000 (bench (withReg 8 [0xF0])) State.resData] =
      [some 0x0F, some 0] := by decide

/-! Lines, delay, buffer -/

/-- V44-1, V44-2. -/
theorem test_ceSet :
    [run 0x40000000 (bench fresh) (fun t => (t.trace, t.ce)), run 0x40000001 (bench fresh) (fun t => (t.trace, t.ce))] =
      [some ([.ce false], false), some ([.ce true], true)] := by decide

/-- V44-6. -/
theorem test_delayMs : run 0x4100012C (bench fresh) State.trace = some [.wait (.ms 300)] := by decide

/-- V44-8, V44-9. -/
theorem test_bufWrite :
    run 0x421F5A00 (bench fresh) (fun t => (t.buf, t.trace)) = some ([(31, 0x5A)], []) ∧
      refusal 0x42205A00 (bench fresh) = some .lengthOutOfRange := by decide

/-- V44-10. -/
theorem test_bufRead : run 0x43000000 (inited fresh [0xE7]) (fun t => (t.resData, t.trace)) = some (0xE7, []) := by decide

/-- V44-11, V44-12: BUF[3] stays unwritten. -/
theorem test_bufRead_unwritten :
    run 0x43030000 (bench fresh) (fun t => (t.buf, t.draws)) = some ([], 1) ∧
      refusal 0x43200000 (bench fresh) = some .lengthOutOfRange := by decide

/-! Device configuration -/

set_option maxRecDepth 4000 in
/-- P1, the whole event list and DeviceState. -/
theorem test_initialize :
    run 0x500A1400 (bench fresh) (fun t => (t.trace, t.payloadSize, t.channelCache, t.initDone, t.resErr)) =
      some ([.ce false, .wait (.ms 50)] ++ frame 0x20 0x0E [(0x0A, 0)] ++ frame 0x24 0x0E [(0x5F, 0)] ++
        frame 0x26 0x0E [(0x06, 0)] ++ frame 0x3C 0x0E [(0, 0)] ++ frame 0x3D 0x0E [(0, 0)] ++
        frame 0x27 0x0E [(0x70, 0)] ++ frame 0x25 0x0E [(0x0A, 0)] ++ frame 0xE1 0x0E [] ++ frame 0xE2 0x0E [] ++
        frame 0x31 0x0E [(0x14, 0)] ++ frame 0x32 0x0E [(0x14, 0)] ++ frame 0x33 0x0E [(0x14, 0)] ++
        frame 0x34 0x0E [(0x14, 0)] ++ frame 0x35 0x0E [(0x14, 0)] ++ frame 0x36 0x0E [(0x14, 0)] ++
        frame 0x20 0x0E [(0x0A, 0)], 20, 10, true, false) := by decide

set_option maxRecDepth 4000 in
/-- V45-18, V45-16. -/
theorem test_initialize_channel :
    run 0x507E1400 (bench fresh) (fun t => (t.channelCache, t.resErr, reg 5 t, t.trace.length)) =
        some (0xFF, true, [1], 64) ∧
      refusal 0x500A0000 (bench fresh) = some .payloadSizeZero := by decide

/-- V45-5. -/
theorem test_setChannel_repeat :
    run 0x51280000 { bench fresh with channelCache := 40#8 } (fun t => (t.trace, t.channelCache, t.resErr, reg 5 t)) =
      some (frame 0x25 0x0E [(1, 0)], 40, true, [1]) := by decide

/-- V45-2. -/
theorem test_setChannel :
    run 0x517D0000 (bench fresh) (fun t => (t.trace, t.channelCache, t.resErr)) =
      some (frame 0x25 0x0E [(0x7D, 0)], 125, false) := by decide

/-- V45-14. -/
theorem test_setAddress_own :
    run 0x52000001 (inited fresh [0xC1, 0xC2, 0xC3, 0xC4, 0xC5]) (fun t => (reg 0x0A t, reg 0x10 t)) =
      some ([0xC1, 0xC2, 0xC3, 0xC4, 0xC5], [0, 0, 0, 0, 0]) := by decide

/-- V45-15. -/
theorem test_setAddress_peer :
    run 0x52000000 (inited fresh [0xE7, 0xE6, 0xE5, 0xE4, 0xE3]) State.trace =
      some (frame 0x2A 0x0E [(0xE7, 0), (0xE6, 0), (0xE5, 0), (0xE4, 0), (0xE3, 0)] ++
        frame 0x30 0x0E [(0xE7, 0), (0xE6, 0), (0xE5, 0), (0xE4, 0), (0xE3, 0)]) := by decide

/-- V45-11, V45-12. -/
theorem test_setRfParameters :
    run 0x53020100 (bench fresh) (fun t => (t.trace, t.dataRate, t.txPower, reg 6 t)) =
        some (frame 0x26 0x0E [(0x22, 0)], .dr250K, .pwr1, [0x22]) ∧
      refusal 0x53030000 (bench fresh) = some .reservedOperand := by decide

/-! Transmit and receive -/

/-- V46-1. -/
theorem test_powerUpTx :
    run 0x60000000 (bench fresh) (fun t => (t.trace, reg 0 t)) = some (frame 0x20 0x0E [(0x0A, 0)], [0x0A]) := by decide

/-- V46-3. -/
theorem test_transmit :
    run 0x61000000 (inited { withSt 0x3E with txf := [[0xFF]] } [0xDE, 0xAD, 0xBE, 0xEF])
      (fun t => (t.trace, txFifo t, slaveSt t, t.statusLatch)) =
    some ([.ce false] ++ frame 0x20 0x3E [(0x0A, 0)] ++ frame 0x27 0x3E [(0x70, 0)] ++ frame 0xE1 0x0E [] ++
      frame 0xA0 0x0E [(0xDE, 0), (0xAD, 0), (0xBE, 0), (0xEF, 0)] ++ [.ce true, .wait (.ms 100), .ce false],
      [[0xDE, 0xAD, 0xBE, 0xEF]], 0x0E, 0x0E) := by decide

/-- V46-2, V46-8. -/
theorem test_transmit_refused :
    [refusal 0x61000000 (bench fresh), refusal 0x63000000 (bench fresh)] =
      [some .notInitialized, some .notInitialized] := by decide

/-- V46-4. -/
theorem test_powerUpRx :
    run 0x62000000 { bench { withSt 0x60 with rxf := [[1]] } with ce := true } (fun t => (t.trace, rxFifo t, t.ce)) =
      some ([.ce false] ++ frame 0xE2 0x60 [] ++ frame 0x27 0x60 [(0x70, 0)] ++ frame 0x20 0x00 [(0x0B, 0)] ++
        [.ce true], [], true) := by decide

/-- V46-6. -/
theorem test_getPayload :
    run 0x63000000 (inited { withSt 0x60 with rxf := [[1, 2, 3, 4]] } [0, 0, 0, 0])
      (fun t => (t.trace, t.buf, slaveSt t)) =
    some (frame 0x61 0x60 [(0, 1), (0, 2), (0, 3), (0, 4)] ++ frame 0x27 0x60 [(0x40, 0)],
      [(0, 1), (1, 2), (2, 3), (3, 4)], 0x20) := by decide

/-- V46-9. -/
theorem test_powerDown :
    run 0x64000000 { bench (withReg 0 [0x0B]) with ce := true } (fun t => (t.trace, reg 0 t, t.ce)) =
      some ([.ce false] ++ frame 0x00 0x0E [(0xFF, 0x0B)] ++ frame 0x20 0x0E [(0x09, 0)], [0x09], false) := by decide

/-! Reset, the port, the radio -/

/-- V10-2. -/
theorem test_rst_truncates :
    (match step { inited fresh [0x11, 0x22, 0x33, 0x44, 0x55] with inputs := [.commandThenRst 0x130A0500 5] } with
      | .next t => some (t.trace, t.buf, t.initDone, t.statusValid)
      | .fault _ => none
      | .refused _ => none) =
    some ([.csn false, .xfer 0x2A 0x0E, .xfer 0x11 0, .xfer 0x22 0, .xfer 0x33 0, .csn true], [], false, false) := by decide

/-- V10-1: the controller is reset, and the slave keeps what it held. -/
theorem test_rst_between_commands :
    (match step { inited (withReg 5 [0x0A]) [1, 2] with inputs := [.rst], ce := true, channelCache := 10 } with
      | .next t => some (t.channelCache, t.buf, t.ce, reg 5 t)
      | .fault _ => none
      | .refused _ => none) = some (0xFF, [], false, [0x0A]) := by decide

/-- P3, between its rows 9 and 10: a payload arrives on pipe 1. -/
theorem test_radio_rx :
    (match step { bench fresh with inputs := [.radio (.rx 1 [0x11, 0x12])] } with
      | .next t => some (slaveSt t, rxFifo t, t.trace)
      | .fault _ => none
      | .refused _ => none) = some (0x42, [[0x11, 0x12]], []) := by decide

/-- P2, variants a and b. -/
theorem test_radio_outcome :
    let s : RefSlave := { fresh with txf := [[1]] }
    (s.radio Config.default .txOk).st = 0x2E ∧ (s.radio Config.default .txOk).txf = [] ∧
      (s.radio Config.default (.txLost 15)).st = 0x1E ∧
      (s.radio Config.default (.txLost 15)).regs.getD 8 [] = [0x0F] := by decide

/-- The word the host places is the next one to run (GET_STATUS, with an unknown slave after reset). -/
theorem test_withFetchWord :
    (match step (State.reset.withFetchWord 32 0x02000000) with
      | .next t => some (t.statusValid, t.busy, t.inputs)
      | .fault _ => none
      | .refused _ => none) = some (true, false, []) := by decide

/-! Witnesses: for each statement with hypotheses, a state and operands that meet them all, one for each clause -/

/-- The default parameters meet every requirement. -/
theorem default_ok : Config.default.Ok := by constructor <;> decide

theorem fresh_shaped : fresh.Shaped Config.default := ⟨by decide, by decide⟩

/-- An initialised controller with four bytes in BUF and a legal channel in its cache. -/
def ready : State := { inited fresh [0xDE, 0xAD, 0xBE, 0xEF, 0x99] with channelCache := 40#8 }

/-- A controller without the sequence layer. -/
def bare : State := State.resetWith { Config.default with seqPresent := false }

theorem ready_inv (inputs : List Input) : ({ ready with inputs := inputs } : State).Inv where
  cfgOk := default_ok
  engineIdle := fun _ => ⟨rfl, rfl, rfl⟩
  payloadLegal := fun _ =>
    (by decide : ready.cfg.minPayload.toNat ≤ ready.payloadSize.toNat ∧ ready.payloadSize.toNat ≤ ready.cfg.maxPayload.toNat)
  cacheLegal := .inr (by decide : ready.channelCache ≤ ready.cfg.chMax)
  bufLegal := (⟨by decide, by decide⟩ : Memory.wf ready.buf ∧ ∀ cell ∈ ready.buf, cell.1 < ready.cfg.bufSize)
  resCode := (by decide : ready.resCode ≠ 3#2)

theorem ready_busInv (inputs : List Input) : ({ ready with inputs := inputs } : State).BusInv where
  replayed := rfl
  engineIdle := fun _ => ⟨rfl, rfl, rfl⟩
  latched := fun h => absurd h (by decide : ready.statusValid ≠ true)

theorem witness_UnusedBitsAreIgnored :
    decode 0x02ABCDEF#32 = .ok .getStatus ∧
      0x02000000#32 &&& Instr.getStatus.usedBits = 0x02ABCDEF#32 &&& Instr.getStatus.usedBits := ⟨rfl, by decide⟩

theorem witness_ReservedHopIsRefused :
    hopField 0x64000000#32 = 0x64#8 ∧ hopField 0x65000000#32 = 0x65#8 ∧
      ({ ready with inputs := [.command 0x65000000#32] } : State).busy = false := by decide

theorem witness_StepRunsTheDecodedCommand :
    State.reset.busy = false ∧ decode 0x40000001#32 = .ok (.ceSet true) ∧ decode 0x10200000#32 = .ok (.readReg 0x20) ∧
      (∃ t, exec (.ceSet true) { State.reset with inputs := [], busy := true } = .next t) ∧
      (∃ r, exec (.readReg 0x20) { State.reset with inputs := [], busy := true } = .refused r) :=
  ⟨rfl, rfl, rfl, ⟨_, rfl⟩, ⟨_, rfl⟩⟩

theorem witness_BusyPortAcceptsNothing :
    ({ ready with busy := true, inputs := [.command 0x02000000#32] } : State).busy = true ∧ ready.inputs = [] := by decide

theorem witness_TransactRunsOneFrame :
    hopField 0x01FF0000#32 = 0x01#8 ∧ ready.cfg.bufSize < (33#8).toNat ∧ (32#8).toNat ≤ ready.cfg.bufSize ∧
      (0#8).toNat ≤ ready.cfg.bufSize := by decide

/-- An initialised controller, PAYLOAD_SIZE = 4, with an unknown slave that has these bytes ready. -/
def hearing (answers : List Byte) : State := { ready with slave := .oracle 0 answers }

theorem witness_ReceivedBytesAreTheSlaves :
    (Dir.duplex ≠ .send ∧ [0xE7#8].length = (1#8).toNat ∧ (1#8).toNat ≤ ready.cfg.bufSize ∧
      (hearing [0x0E, 0xE7, 1]).slave = .oracle 0 (0x0E :: [0xE7] ++ [1])) ∧
    (clearBits 0x1F#8 ready.cfg.addrMask = 0#8 ∧ (hearing [0x0E, 0xE7, 1]).slave = .oracle 0 (0x0E :: 0xE7 :: [1])) ∧
    (hearing [0x0E, 0x0A, 0x0F, 0, 1]).slave = .oracle 0 (0x0E :: 0x0A :: 0x0F :: 0 :: [1]) ∧
    (ready.cfg.seqPresent = true ∧ ready.initDone = true ∧ [1#8, 2, 3, 4].length = ready.payloadSize.toNat ∧
      (hearing [0x40, 1, 2, 3, 4, 9]).slave = .oracle 0 (0x40 :: [1, 2, 3, 4] ++ [9]) ∧
      (hearing [0x40, 1, 2, 3, 4, 0x42, 0, 9]).slave = .oracle 0 (0x40 :: [1, 2, 3, 4] ++ 0x42 :: 0 :: [9])) ∧
    ((0x40#8).getLsbD ready.cfg.bitRxDr = true ∧ (hearing [0x40, 1]).slave = .oracle 0 (0x40 :: [1])) ∧
    ((0x0E#8).getLsbD ready.cfg.bitRxDr = false ∧
      (hearing [0x0E, 0x0F, 0, 1]).slave = .oracle 0 (0x0E :: 0x0F :: 0 :: [1])) := by decide

theorem witness_EveryCommandHearsTheSlaveInOrder :
    (hearing [0x0E]).slave = .oracle 0 [0x0E] ∧ (∃ t, exec (.readReg 5) (hearing [0x0E]) = .next t) ∧
      (∃ t, exec .powerUpRx (hearing [0x0E]) = .next t) := ⟨rfl, ⟨_, rfl⟩, ⟨_, rfl⟩⟩

theorem witness_ReadRegReturnsTheByte :
    hopField 0x101F0000#32 = 0x10#8 ∧ clearBits 0x20#8 ready.cfg.addrMask ≠ 0#8 ∧
      clearBits 0x1F#8 ready.cfg.addrMask = 0#8 := by decide

theorem witness_WriteRegSendsTheValue :
    hopField 0x11FF0000#32 = 0x11#8 ∧ clearBits 0xFF#8 ready.cfg.addrMask ≠ 0#8 ∧
      clearBits 0x00#8 ready.cfg.addrMask = 0#8 := by decide

theorem witness_ReadRegMultiFillsBuf :
    hopField 0x120A2100#32 = 0x12#8 ∧ clearBits 0x20#8 ready.cfg.addrMask ≠ 0#8 ∧
      (clearBits 0x1F#8 ready.cfg.addrMask = 0#8 ∧ ready.cfg.bufSize < (33#8).toNat) ∧
      (clearBits 0x1F#8 ready.cfg.addrMask = 0#8 ∧ (32#8).toNat ≤ ready.cfg.bufSize) := by decide

theorem witness_WriteRegMultiSendsBuf :
    hopField 0x13300500#32 = 0x13#8 ∧ clearBits 0x30#8 ready.cfg.addrMask ≠ 0#8 ∧
      (clearBits 0x10#8 ready.cfg.addrMask = 0#8 ∧ ready.cfg.bufSize < (33#8).toNat) ∧
      (clearBits 0x10#8 ready.cfg.addrMask = 0#8 ∧ (32#8).toNat ≤ ready.cfg.bufSize) := by decide

theorem witness_ReadBitReturnsTheBit :
    hopField 0x14000F00#32 = 0x14#8 ∧ clearBits 0x40#8 ready.cfg.addrMask ≠ 0#8 ∧
      clearBits 0x1F#8 ready.cfg.addrMask = 0#8 := by decide

theorem witness_WriteBitChangesOneBit :
    hopField 0x15000701#32 = 0x15#8 ∧ clearBits 0x40#8 ready.cfg.addrMask ≠ 0#8 ∧
      clearBits 0x1F#8 ready.cfg.addrMask = 0#8 := by decide

theorem witness_PayloadCommandsMoveTheFixedSize :
    hopField 0x20000000#32 = 0x20#8 ∧ hopField 0x21000000#32 = 0x21#8 ∧
      (State.reset.cfg.seqPresent = true ∧ State.reset.initDone = false) ∧
      (ready.cfg.seqPresent = true ∧ ready.initDone = true) := by decide

theorem witness_FlushCommandsSendOneByte : hopField 0x22000000#32 = 0x22#8 ∧ hopField 0x23000000#32 = 0x23#8 := by decide

theorem witness_StatusByteDecodesByPosition :
    ({ ready with statusValid := true } : State).statusValid = true ∧ ready.statusValid = false := by decide

theorem witness_OutcomeTestsSuccessFirst :
    (0x3E#8).getLsbD Config.default.bitTxDs = true ∧
      ((0x1E#8).getLsbD Config.default.bitTxDs = false ∧ (0x1E#8).getLsbD Config.default.bitMaxRt = true) ∧
      ((0x0E#8).getLsbD Config.default.bitTxDs = false ∧ (0x0E#8).getLsbD Config.default.bitMaxRt = false) := by decide

theorem witness_StatusCommands :
    hopField 0x02ABCDEF#32 = 0x02#8 ∧ hopField 0x30000000#32 = 0x30#8 ∧ hopField 0x31000000#32 = 0x31#8 := by decide

theorem witness_GetRetxCountReturnsTheLowBits : hopField 0x32000000#32 = 0x32#8 ∧ ready.cfg.Ok := ⟨by decide, default_ok⟩

theorem witness_CeSetDrivesTheEnableLine : hopField 0x400000FE#32 = 0x40#8 := by decide

theorem witness_DelayOnlyWaits : hopField 0x4100FFFF#32 = 0x41#8 := by decide

theorem witness_BufWriteStoresOneByte :
    hopField 0x421F5A00#32 = 0x42#8 ∧ ready.cfg.bufSize ≤ (32#8).toNat ∧ (31#8).toNat < ready.cfg.bufSize := by decide

theorem witness_BufReadReturnsTheByte :
    hopField 0x43030000#32 = 0x43#8 ∧ ready.cfg.bufSize ≤ (32#8).toNat ∧
      ((3#8).toNat < ready.cfg.bufSize ∧ ready.buf.read (3#8).toNat = some 0xEF#8) ∧
      ((31#8).toNat < ready.cfg.bufSize ∧ ready.buf.read (31#8).toNat = none) := by decide

theorem witness_InitializeRunsElevenSteps :
    hopField 0x500A1400#32 = 0x50#8 ∧ ready.cfg.Ok ∧ ready.cfg.seqPresent = true ∧ 1#8 ≠ 0#8 :=
  ⟨by decide, default_ok, rfl, by decide⟩

theorem witness_InitializeClampsThePayloadSize :
    ready.cfg.Ok ∧ ready.cfg.maxPayload ≤ 32#8 ∧ ready.cfg.maxPayload ≤ 255#8 := ⟨default_ok, by decide, by decide⟩

theorem witness_SetChannelAcceptsOrFallsBack :
    hopField 0x517E0000#32 = 0x51#8 ∧ ready.cfg.seqPresent = true ∧
      (125#8 ≤ ready.cfg.chMax ∧ 125#8 ≠ ready.channelCache) ∧ ¬(126#8 ≤ ready.cfg.chMax ∧ 126#8 ≠ ready.channelCache) ∧
      ¬(40#8 ≤ ready.cfg.chMax ∧ 40#8 ≠ ready.channelCache) := by decide

theorem witness_RepeatedChannelIsRejected : ready.cfg.seqPresent = true ∧ 125#8 ≤ ready.cfg.chMax := by decide

theorem witness_SetAddressWritesTheAddress : hopField 0x52000001#32 = 0x52#8 ∧ ready.cfg.seqPresent = true := by decide

theorem witness_SetRfParametersRewritesTheRegister :
    hopField 0x5306FF00#32 = 0x53#8 ∧ ready.cfg.seqPresent = true := by decide

theorem witness_TransmitAndReceive :
    hopField 0x60000000#32 = 0x60#8 ∧ hopField 0x61000000#32 = 0x61#8 ∧ hopField 0x62000000#32 = 0x62#8 ∧
      hopField 0x63000000#32 = 0x63#8 ∧ hopField 0x64000000#32 = 0x64#8 ∧
      (State.reset.cfg.seqPresent = true ∧ State.reset.initDone = false) ∧
      (ready.cfg.seqPresent = true ∧ ready.initDone = true) := by decide

/-- With the parameters as required: POWER_UP_TX, POWER_UP_RX, GET_PAYLOAD. -/
theorem witness_TransmitAndReceive_parameters : ready.cfg.Ok ∧ ready.cfg.seqPresent = true ∧ ready.initDone = true :=
  ⟨default_ok, by decide⟩

theorem witness_PayloadCommandsAreTransactions :
    (bare.cfg.seqPresent = false ∧ 0x50#8 ≤ (Instr.initController 10 20).hop ∧ Instr.powerDown.hop ≤ 0x64#8 ∧
      Instr.writeTxPayload.hop = 0x20#8 ∧ Instr.readRxPayload.hop = 0x21#8) ∧
      ready.cfg.seqPresent = true ∧ ready.initDone = true ∧ ready.payloadSize.toNat ≤ ready.cfg.bufSize := by decide

theorem witness_CommandsCompleteUnlessRefused :
    refusalOf State.reset .transmit = some .notInitialized ∧ refusalOf State.reset (.readReg 0x1F) = none := by decide

theorem witness_BufIsKeptOutsideStores :
    (∃ t, exec (.bufWrite 31 0x5A) ready = .next t) ∧ ¬storesTo ready (.bufWrite 31 0x5A) 30 ∧
      storesTo ready (.bufWrite 31 0x5A) 31 ∧ (∃ t, exec .getPayload ready = .next t) ∧ storesTo ready .getPayload 3 ∧
      ¬storesTo ready .getPayload 4 :=
  ⟨⟨_, rfl⟩, by rintro (⟨i, v, h, e⟩ | h)
                · cases h
                  exact absurd e (by decide)
                · exact absurd h (by decide),
    .inl ⟨31, 0x5A, rfl, rfl⟩, ⟨_, rfl⟩, .inr (by decide), by rintro (⟨i, v, h, _⟩ | h)
                                                              · cases h
                                                              · exact absurd h (by decide)⟩

theorem witness_DeviceStateHasItsWriters :
    (∃ t, exec .transmit ready = .next t) ∧ (∃ t, exec (.setChannel 125) ready = .next t) ∧ ready.initDone = true :=
  ⟨⟨_, rfl⟩, ⟨_, rfl⟩, rfl⟩

theorem witness_ResultRegistersHaveTheirWriters :
    (∃ t, exec (.bufRead 3) ready = .next t ∧ t.resData ≠ ready.resData) ∧
      (∃ t, exec .isDataReady { ready with resFlag := true } = .next t ∧ t.resFlag ≠ true) ∧
      (∃ t, exec .getTxStatus { ready with resCode := 1#2 } = .next t ∧ t.resCode ≠ 1#2) ∧
      (∃ t, exec (.setChannel 126) ready = .next t ∧ t.resErr = true) :=
  ⟨⟨_, rfl, by decide⟩, ⟨_, rfl, by decide⟩, ⟨_, rfl, by decide⟩, ⟨_, rfl, by decide⟩⟩

theorem witness_LinesHaveTheirWriters :
    (∃ t, exec .powerUpRx ready = .next t ∧ t.ce ≠ ready.ce) ∧ ready.csn = true := ⟨⟨_, rfl, by decide⟩, rfl⟩

theorem witness_RstResetsTheController :
    ({ ready with inputs := [.rst, .command 0x02000000#32] } : State).inputs = .rst :: [.command 0x02000000#32] ∧
      ready.busy = false ∧ ({ ready with busy := true } : State).busy = true := by decide

theorem witness_RstDuringACommandTruncatesIt :
    ready.busy = false ∧ ready.csn = true ∧
      (∃ t, step { ready with inputs := [.command 0x130A0500#32] } = .next t) := ⟨rfl, rfl, ⟨_, rfl⟩⟩

theorem witness_StepKeepsTheInvariant :
    ({ ready with inputs := [.command 0x42000000#32] } : State).Inv ∧
      ∃ t, step { ready with inputs := [.command 0x42000000#32] } = .next t := ⟨ready_inv _, ⟨_, rfl⟩⟩

theorem witness_StepKeepsTheBusInvariant :
    ({ ready with inputs := [.rst] } : State).BusInv ∧ ∃ t, step { ready with inputs := [.rst] } = .next t :=
  ⟨ready_busInv _, ⟨_, rfl⟩⟩

/-- For the six statements about the reference slave. -/
theorem witness_ReferenceSlave :
    ready.cfg.Ok ∧ ready.cfg.seqPresent = true ∧ ready.slave = .reference fresh ∧ fresh.Shaped ready.cfg ∧
      ready.initDone = true ∧ ready.ce = false ∧ (∀ j, j < ready.cfg.addrLen → ∃ b, ready.buf.read j = some b) ∧
      255#8 ≠ 0#8 :=
  ⟨default_ok, rfl, rfl, fresh_shaped, rfl, rfl, fun j hj => by
    have : ∀ j, j < 5 → (ready.buf.read j).isSome = true := by decide
    exact Option.isSome_iff_exists.mp (this j hj), by decide⟩

end Sys2Proof.Tests
end

section
/-! SUPPORT. When a command is refused (spec/60_exceptions.md R203, R206): `exec` answers the reason `refusalOf` gives, and the
command's effect where it gives none, which is exactly when the command is ready. -/

namespace Sys2Proof.Machine

/-! A chain of tests, of which the first that applies gives its reason -/

theorem guard_eq_none_iff {p : Prop} [Decidable p] {r : Refusal} {rest : Option Refusal} :
    (if p then some r else rest) = none ↔ ¬p ∧ rest = none := by
  by_cases h : p <;> simp [h]

theorem guard_elim {p : Prop} [Decidable p] {r : Refusal} {rest : Option Refusal} {t : State} :
    (if p then some r else rest).elim (.next t : Host.Outcome State Fault Refusal) .refused =
      if p then .refused r else rest.elim (.next t) .refused := by
  by_cases h : p <;> simp [h]

/-! The tests of R203 -/

/-- R99, R100: the operands are legal when none of the tests R203 makes on them applies. -/
theorem operandsLegal_iff (c : Config) (i : Instr) :
    i.operandsLegal c = true ↔
      hasReservedOperand i = false ∧ (regAddress i).any (fun a => clearBits a c.addrMask != 0#8) = false ∧
        bufExtent i ≤ c.bufSize ∧ asksNoPayload i = false := by
  cases i with
  | readReg | writeReg | readBit | writeBit | readRegMulti | writeRegMulti =>
    simp [Instr.operandsLegal, addrInMask_eq, addrOutside, hasReservedOperand, regAddress, bufExtent, asksNoPayload]
  | bufWrite | bufRead =>
    simp only [Instr.operandsLegal, hasReservedOperand, regAddress, bufExtent, asksNoPayload, Option.any_none,
      decide_eq_true_eq, Nat.add_one_le_iff, true_and, and_true]
  | _ => simp [Instr.operandsLegal, hasReservedOperand, regAddress, bufExtent, asksNoPayload, Option.isSome_iff_ne_none]

/-- R203: no reason to refuse a command is found exactly when it is ready. -/
theorem refusalOf_eq_none_iff (s : State) (i : Instr) : refusalOf s i = none ↔ s.ready i := by
  simp only [refusalOf, State.ready, Instr.wellFormed, guard_eq_none_iff, operandsLegal_iff, Bool.and_eq_true,
    Bool.or_eq_true, Bool.not_eq_true', ← Bool.not_eq_true, Nat.not_lt, Decidable.not_and_not_right,
    ← Decidable.imp_iff_or_not]
  exact ⟨fun ⟨layer, reserved, addr, extent, init, payload, _⟩ => ⟨⟨layer, reserved, addr, extent, payload⟩, init⟩,
    fun ⟨⟨layer, reserved, addr, extent, payload⟩, init⟩ => ⟨layer, reserved, addr, extent, init, payload, trivial⟩⟩

/-- R203, R206: a command is refused for the first reason that applies, and completes with its effect where none does. -/
theorem exec_eq_refusalOf (s : State) (i : Instr) :
    exec i s = (refusalOf s i).elim (.next (effect s i)) .refused := by
  simp only [refusalOf, guard_elim, Option.elim_none]
  cases i <;> simp only [Instr.needsSequenceLayer, hasReservedOperand, regAddress, bufExtent, needsInit, asksNoPayload]
  case transact dir => cases dir <;> simp [exec, execTransact, effect, tooLong]
  case setRfParameters rate _ => cases rate <;> simp [exec, execSetRfParameters, effect]
  case readReg | writeReg | readBit | writeBit =>
    simp [exec, execReadReg, execWriteReg, execReadBit, execWriteBit, effect, addrOutside]
  case readRegMulti | writeRegMulti =>
    simp [exec, execReadRegMulti, execWriteRegMulti, effect, addrOutside, tooLong]
  case bufWrite | bufRead =>
    simp only [exec, execBufWrite, execBufRead, effect, noSuchIndex, Option.any_none, decide_eq_true_eq,
      Nat.lt_add_one_iff, Bool.false_and, Bool.false_eq_true, if_false]
  case writeTxPayload | readRxPayload | transmit | getPayload =>
    simp [exec, execWriteTxPayload, execReadRxPayload, execTransmit, execGetPayload, effect]
  case initController => simp [exec, execInitialize, effect]
  case setChannel | setAddress | powerUpTx | powerUpRx | powerDown =>
    simp [exec, execSetChannel, execSetAddress, execPowerUpTx, execPowerUpRx, execPowerDown, effect]
  case getStatus | flushTx | flushRx | getTxStatus | isDataReady | getRetxCount | ceSet | delayMs =>
    simp [exec, execGetStatus, execFlushTx, execFlushRx, execGetTxStatus, execIsDataReady, execGetRetxCount, execCeSet,
      execDelayMs, effect]

/-- Settles O40: the reason and the effect are those of `exec_eq_refusalOf`, and a command without a reason is a ready one. -/
theorem commandsCompleteUnlessRefused : Obligations.CommandsCompleteUnlessRefused := by
  intro s i
  refine ⟨fun r hr => ?_, fun hn => ⟨effect s i, ?_⟩, refusalOf_eq_none_iff s i⟩
  · rw [exec_eq_refusalOf, hr, Option.elim_some]
  · rw [exec_eq_refusalOf, hn, Option.elim_none]

end Sys2Proof.Machine
end

section
/-! SUPPORT. Who writes the registers (spec/10_state.md R20): what a command that completes can be, and, said once over all
commands, which registers each leaves as they were. -/

namespace Sys2Proof.Machine

/-- A command completes exactly when it is ready (R203), and then with its effect. -/
theorem exec_eq_next_iff {s t : State} {i : Instr} : exec i s = .next t ↔ s.ready i ∧ t = effect s i := by
  rw [exec_eq_refusalOf, ← refusalOf_eq_none_iff]
  cases refusalOf s i <;> simp [eq_comm]

/-- A command that completes has no reserved operand, and asks for no byte beyond BUF (R203 b, c). -/
theorem State.ready.operands {s : State} {i : Instr} (h : s.ready i) :
    hasReservedOperand i = false ∧ bufExtent i ≤ s.cfg.bufSize := by
  have legal : i.operandsLegal s.cfg = true := (Bool.and_eq_true_iff.mp h.1).2
  obtain ⟨reserved, -, extent, -⟩ := (operandsLegal_iff _ _).mp legal
  exact ⟨reserved, extent⟩

/-- The writers of DeviceState, of the result registers, of STATUS_LATCH and of CE: from `s` to `t`, `i` has left alone each
register of which it is no writer (R20, R22, R28, R30 to R36), and set RES_ERR and STATUS_VALID as R201 and R28 say. -/
structure KeepsToItsRegisters (i : Instr) (s t : State) : Prop where
  sizes : (∀ ch p, i ≠ .initController ch p) → t.payloadSize = s.payloadSize ∧ t.initDone = s.initDone
  cache : (∀ ch p, i ≠ .initController ch p) → (∀ ch, i ≠ .setChannel ch) → t.channelCache = s.channelCache
  radio : (∀ r p, i ≠ .setRfParameters r p) → t.dataRate = s.dataRate ∧ t.txPower = s.txPower
  resData : i.hop ∉ [0x02#8, 0x10#8, 0x14#8, 0x15#8, 0x30#8, 0x32#8, 0x43#8, 0x64#8] → t.resData = s.resData
  resFlag : i.hop ∉ [0x14#8, 0x31#8] → t.resFlag = s.resFlag
  resCode : i.hop ≠ 0x30#8 → t.resCode = s.resCode
  resErr : i.hop ∉ [0x50#8, 0x51#8] → t.resErr = false
  latch : i.hop ∈ [0x40#8, 0x41#8, 0x42#8, 0x43#8] → t.statusLatch = s.statusLatch ∧ t.statusValid = s.statusValid
  valid : i.hop ∉ [0x40#8, 0x41#8, 0x42#8, 0x43#8] → t.statusValid = true
  ce : i.hop ∉ [0x40#8, 0x50#8, 0x61#8, 0x62#8, 0x64#8] → t.ce = s.ce

/-- Only a command with a reserved operand, which never runs, would not report and latch as it should. -/
theorem effect_keepsToItsRegisters (s : State) {i : Instr} (legal : hasReservedOperand i = false) :
    KeepsToItsRegisters i s (effect s i) := by
  cases i with
  | transact c n d =>
    rcases d with _ | _ | _ | _
    · cases legal
    all_goals constructor <;> simp [effect, doTransact, Instr.hop]
  | setRfParameters rate =>
    rcases rate with _ | rate
    · cases legal
    · constructor <;> simp [effect, doSetRfParameters, Instr.hop]
  | getStatus | getTxStatus | getRetxCount =>
    constructor <;> simp [effect, doGetStatus, doGetTxStatus, doGetRetxCount, Instr.hop]
  | isDataReady =>
    simp only [effect, doIsDataReady]
    split <;> constructor <;> simp [Instr.hop]
  | readReg | readBit | writeBit | readRegMulti | writeRegMulti =>
    constructor <;> simp [effect, doReadReg, doReadBit, doWriteBit, doReadRegMulti, doWriteRegMulti, Instr.hop]
  | writeReg | flushTx | flushRx | powerUpTx | setChannel => constructor <;> simp [effect, Instr.hop]
  | ceSet | delayMs | bufWrite | bufRead =>
    constructor <;> simp [effect, doCeSet, doDelayMs, doBufWrite, doBufRead, Instr.hop]
  | initController => constructor <;> simp [effect, doInitialize_eq, Instr.hop]
  | setAddress own => cases own <;> constructor <;> simp [effect, doSetAddress, doWriteRegMulti, Instr.hop]
  | writeTxPayload | readRxPayload | getPayload =>
    constructor <;> simp [effect, doWriteTxPayload, doReadRxPayload, doGetPayload, Instr.hop]
  | transmit | powerUpRx | powerDown =>
    constructor <;> simp [effect, doTransmit, doPowerUpRx, doPowerDown, doWriteTxPayload, doWriteBit, doCeSet, doDelayMs,
      Instr.hop]

theorem exec_keepsToItsRegisters {s t : State} {i : Instr} (h : exec i s = .next t) : KeepsToItsRegisters i s t := by
  obtain ⟨hr, rfl⟩ := exec_eq_next_iff.mp h
  exact effect_keepsToItsRegisters s hr.operands.1

/-- INITIALIZE leaves the clamped size, and INIT_DONE = 1 (R171). -/
theorem doInitialize_sizes (channel payloadSize : Byte) (s : State) :
    (doInitialize channel payloadSize s).payloadSize = clampPayload s.cfg payloadSize ∧
      (doInitialize channel payloadSize s).initDone = true := by
  simp [doInitialize_eq]

/-- Settles O42: each register has its writers by `KeepsToItsRegisters`, and INITIALIZE sets INIT_DONE. -/
theorem deviceStateHasItsWriters : Obligations.DeviceStateHasItsWriters := by
  intro s t i h
  have w := exec_keepsToItsRegisters h
  refine ⟨fun hi => ⟨(w.sizes hi).1, (w.sizes hi).2, w.cache hi⟩, w.radio, fun hd => ?_⟩
  by_cases hi : ∃ ch p, i = .initController ch p
  · obtain ⟨ch, p, rfl⟩ := hi
    rw [exec_next h]
    exact (doInitialize_sizes ch p s).2
  · rw [(w.sizes fun ch p e => hi ⟨ch, p, e⟩).2, hd]

/-- Settles O43: a register that changed has its writer, by `KeepsToItsRegisters`. -/
theorem resultRegistersHaveTheirWriters : Obligations.ResultRegistersHaveTheirWriters := by
  intro s t i h
  have w := exec_keepsToItsRegisters h
  have error : t.resErr = true → i.hop ∈ [0x50#8, 0x51#8] := fun he =>
    Decidable.not_imp_symm w.resErr (by rw [he]; decide)
  exact ⟨Decidable.not_imp_symm w.resData, Decidable.not_imp_symm w.resFlag, Decidable.not_imp_symm w.resCode, error, w.latch,
    w.valid⟩

/-- Settles O44: events, CSN, parameters and inputs by `Conducts`, and CE by `KeepsToItsRegisters`. -/
theorem linesHaveTheirWriters : Obligations.LinesHaveTheirWriters := by
  intro s t i h
  obtain ⟨es, hc⟩ := effect_conducts s i
  rw [← exec_next h] at hc
  have w := exec_keepsToItsRegisters h
  exact ⟨⟨es, hc.trace⟩, fun hs => (hc.pins hs).1, Decidable.not_imp_symm w.ce, hc.cfg, hc.inputs, hc.busy⟩

end Sys2Proof.Machine
end

section
/-! SUPPORT. Which bytes of BUF a command stores to (spec/10_state.md R26), and that they lie inside BUF_SIZE. -/

namespace Sys2Proof.Machine

theorem storesTo_bufWrite (s : State) (index value : Byte) (j : Nat) :
    storesTo s (.bufWrite index value) j ↔ j = index.toNat := by
  simp [storesTo, receivedBytes]

theorem storesTo_of_ne_bufWrite {s : State} {i : Instr} (h : ∀ a b, i ≠ .bufWrite a b) (j : Nat) :
    storesTo s i j ↔ j < receivedBytes s i := by
  simp [storesTo, h]

/-- Settles O41: of the three things a command can do to BUF (`effect_buf`), each leaves what it does not store to. -/
theorem bufIsKeptOutsideStores : Obligations.BufIsKeptOutsideStores := by
  intro s t i h j
  obtain rfl := exec_next h
  rcases effect_buf s i with ⟨hi, none, hbuf⟩ | ⟨index, value, rfl, hbuf⟩ | ⟨rx, hi, hlen, hbuf⟩
  · rw [storesTo_of_ne_bufWrite hi, none, hbuf]
    exact ⟨fun _ => rfl, fun hj => absurd hj (Nat.not_lt_zero j)⟩
  · rw [storesTo_bufWrite, hbuf]
    refine ⟨Memory.read_write_other _ value, ?_⟩
    rintro rfl
    exact ⟨value, Memory.read_write_same _ _ value⟩
  · rw [storesTo_of_ne_bufWrite hi, ← hlen, hbuf, Memory.read_writeFrom]
    refine ⟨fun hj => if_neg (by omega), fun hj => ⟨rx[j], ?_⟩⟩
    rw [if_pos (by omega), Nat.sub_zero, List.getElem?_eq_getElem hj]

/-- A command that is ready receives no more than BUF holds: its operand is in range (R99), or PAYLOAD_SIZE is legal (R41). -/
theorem receivedBytes_le_bufSize {s : State} {i : Instr} (ok : s.cfg.Ok) (hp : s.PayloadLegal) (h : s.ready i) :
    receivedBytes s i ≤ s.cfg.bufSize := by
  have extent := h.operands.2
  cases i with
  | transact c n d =>
    match d with
    | none | some .send => exact Nat.zero_le _
    | some .recv | some .duplex => exact extent
  | readRegMulti => exact extent
  | readRxPayload | getPayload => exact Nat.le_trans (hp (h.2 rfl)).2 ok.payload_fits
  | _ => exact Nat.zero_le _

theorem State.BufLegal.effect {s : State} {i : Instr} (ok : s.cfg.Ok) (hp : s.PayloadLegal) (hb : s.BufLegal)
    (h : s.ready i) : (effect s i).BufLegal := by
  obtain ⟨es, hc⟩ := effect_conducts s i
  obtain ⟨wf, inside⟩ := hb
  rw [State.BufLegal, hc.cfg]
  rcases effect_buf s i with ⟨-, -, hbuf⟩ | ⟨index, value, rfl, hbuf⟩ | ⟨rx, -, hlen, hbuf⟩ <;> rw [hbuf]
  · exact ⟨wf, inside⟩
  · refine ⟨Memory.wf_write wf _ _, fun cell hcell => ?_⟩
    rcases Memory.mem_write hcell with rfl | hcell
    · exact h.operands.2
    · exact inside cell hcell
  · refine ⟨Memory.wf_writeFrom wf _ _, fun cell hcell => ?_⟩
    have hrx := receivedBytes_le_bufSize ok hp h
    rcases Memory.mem_writeFrom hcell with ⟨-, hlt⟩ | hcell
    · omega
    · exact inside cell hcell

end Sys2Proof.Machine
end

section
/-! SUPPORT. The invariants (spec/10_state.md R41, R21, R22, R28) at reset and over a step, input by input. -/

namespace Sys2Proof.Machine

/-! The parts of R41, over a command -/

theorem State.PayloadLegal.effect {s : State} {i : Instr} (ok : s.cfg.Ok) (hp : s.PayloadLegal) (h : s.ready i) :
    (effect s i).PayloadLegal := by
  obtain ⟨es, hc⟩ := effect_conducts s i
  rw [State.PayloadLegal, hc.cfg]
  by_cases hi : ∃ ch p, i = .initController ch p
  · obtain ⟨ch, p, rfl⟩ := hi
    have hpos : p ≠ 0#8 := by simpa [Instr.operandsLegal] using (Bool.and_eq_true_iff.mp h.1).2
    have hnat : 0 < p.toNat := Nat.pos_of_ne_zero fun e => hpos (BitVec.eq_of_toNat_eq e)
    have hmax := ok.maxPayload_pos
    intro _
    rw [show (Machine.effect s (.initController ch p)).payloadSize = _ from (doInitialize_sizes ch p s).1,
      clampPayload_toNat ok.maxPayload_width, ok.minPayload_one]
    exact ⟨Nat.le_min.mpr ⟨hnat, hmax⟩, Nat.min_le_right _ _⟩
  · have w := effect_keepsToItsRegisters s h.operands.1
    obtain ⟨size, done⟩ := w.sizes fun ch p e => hi ⟨ch, p, e⟩
    rw [size, done]
    exact hp

/-- The cache after SET_CHANNEL is the accepted channel, or what it was (R172). -/
theorem State.CacheLegal.doSetChannel {s : State} (hc : s.CacheLegal) (ch : Byte) : (doSetChannel ch s).CacheLegal := by
  rw [State.CacheLegal, doSetChannel_cfg]
  unfold Machine.doSetChannel
  split
  next accepted =>
    have := (Bool.and_eq_true_iff.mp accepted).1
    exact .inr (of_decide_eq_true this)
  next => simpa [State.CacheLegal] using hc

theorem State.CacheLegal.effect {s : State} (hc : s.CacheLegal) {i : Instr} (h : s.ready i) :
    (effect s i).CacheLegal := by
  cases i with
  | setChannel ch => exact hc.doSetChannel ch
  | initController ch p =>
    show (doInitialize ch p s).CacheLegal
    rw [doInitialize_eq, State.CacheLegal]
    simp only [initFinish_cfg, initFinish_channelCache]
    exact State.CacheLegal.doSetChannel (.inl (by simp)) ch
  | _ =>
    obtain ⟨es, hcond⟩ := effect_conducts s _
    rw [State.CacheLegal, hcond.cfg, (effect_keepsToItsRegisters s h.operands.1).cache (by simp) (by simp)]
    exact hc

/-- R30: the value 3 is never produced. -/
theorem outcomeCode_ne_three (o : TxOutcome) : outcomeCode o ≠ 3#2 := by cases o <;> decide

theorem effect_resCode_ne_three {s : State} (hs : s.resCode ≠ 3#2) {i : Instr} (h : s.ready i) :
    (effect s i).resCode ≠ 3#2 := by
  by_cases hop : i.hop = 0x30#8
  · obtain rfl : i = .getTxStatus := by cases i <;> simp_all [Instr.hop]
    exact outcomeCode_ne_three _
  · rw [(effect_keepsToItsRegisters s h.operands.1).resCode hop]
    exact hs

/-- A command that completes leaves the engine idle if it found it so. -/
theorem State.EngineIdle.runCommand {s t : State} {w : CommandWord} (hs : s.EngineIdle) (hb : s.busy = false)
    (h : runCommand w s = .next t) : t.EngineIdle := by
  obtain ⟨es, u, hc, rfl⟩ := runCommand_conducts h
  obtain ⟨phase, idx, csn⟩ := hs hb
  obtain ⟨phase', idx'⟩ := hc.idle phase idx
  exact fun _ => ⟨phase', idx', (hc.pins csn).1⟩

/-! The controller's invariant -/

/-- `rst` establishes the invariant, whatever the state it finds. -/
theorem assertRst_inv {s : State} (ok : s.cfg.Ok) : (assertRst s).Inv where
  cfgOk := ok
  engineIdle _ := ⟨rfl, rfl, rfl⟩
  payloadLegal h := absurd h (by simp [assertRst, State.resetWith])
  cacheLegal := .inl rfl
  bufLegal := ⟨Memory.wf_reset s.cfg, fun _ h => absurd h List.not_mem_nil⟩
  resCode h := absurd (show (0#2 : BitVec 2) = 3#2 from h) (by decide)

theorem State.Inv.runCommand {s t : State} {w : CommandWord} (hs : s.Inv) (hb : s.busy = false)
    (h : runCommand w s = .next t) : t.Inv := by
  obtain ⟨i, u, -, he, rfl⟩ := runCommand_next h
  obtain ⟨ready, rfl⟩ := exec_eq_next_iff.mp he
  obtain ⟨es, hc⟩ := effect_conducts (accept s) i
  have cfgOk : (accept s).cfg.Ok := hs.cfgOk
  have payload : (accept s).PayloadLegal := hs.payloadLegal
  have cache : (accept s).CacheLegal := hs.cacheLegal
  have buf : (accept s).BufLegal := hs.bufLegal
  exact {
    cfgOk := hc.cfg ▸ cfgOk
    engineIdle := hs.engineIdle.runCommand hb h
    payloadLegal := payload.effect cfgOk ready
    cacheLegal := cache.effect ready
    bufLegal := buf.effect cfgOk payload ready
    resCode := effect_resCode_ne_three (s := accept s) hs.resCode ready }

theorem State.Inv.radioEvent {s : State} (hs : s.Inv) (e : RadioEvent) : (radioEvent e (dropInput s)).Inv where
  cfgOk := hs.cfgOk
  engineIdle := hs.engineIdle
  payloadLegal := hs.payloadLegal
  cacheLegal := hs.cacheLegal
  bufLegal := hs.bufLegal
  resCode := hs.resCode

/-- Settles O49: a command keeps each part of the invariant, `rst` establishes it anew, and a radio event reaches none of it. -/
theorem stepKeepsTheInvariant : Obligations.StepKeepsTheInvariant := by
  intro s t hs h
  rcases step_next h with rfl | ⟨_, -, rfl⟩ | ⟨e, _, -, rfl⟩ | ⟨_, _, -, hb, hr⟩ | ⟨_, k, _, _, -, hb, hr, rfl⟩
  · exact hs
  · exact assertRst_inv hs.cfgOk
  · exact hs.radioEvent e
  · exact hs.runCommand hb hr
  · exact assertRst_inv (hs.runCommand hb hr).cfgOk

/-- The defaults meet the requirements of R5. No proof here rests on the tests, which show it too. -/
theorem default_cfgOk : Config.default.Ok := by constructor <;> decide

/-- The state of R40 is one that `rst` leaves as it is. -/
theorem assertRst_resetWith (c : Config) : assertRst (State.resetWith c) = State.resetWith c := rfl

/-- Settles O48: State.reset is what `rst` makes of it, and `rst` establishes the invariant. -/
theorem resetMeetsTheInvariant : Obligations.ResetMeetsTheInvariant := by
  unfold Obligations.ResetMeetsTheInvariant
  rw [State.reset, ← assertRst_resetWith]
  exact assertRst_inv default_cfgOk

/-! The pins' invariant -/

/-- `rst` establishes the pins' invariant wherever the events so far lead to the levels it finds (R232). -/
theorem assertRst_busInv {s : State} (h : replay s.trace (true, false) = some (s.csn, s.ce)) : (assertRst s).BusInv where
  replayed := by
    show replay (s.trace ++ resetEvents s.csn s.ce) (true, false) = some (true, false)
    rw [replay_append, h]
    exact replay_resetEvents (s.csn, s.ce)
  engineIdle _ := ⟨rfl, rfl, rfl⟩
  latched h := absurd h (by simp [assertRst, State.resetWith])

/-- What a command from a state of the pins' invariant does at the pins (R120): its events go on from CSN = 1 and the level of
CE, and lead to the levels it leaves. -/
theorem State.BusInv.replay_runCommand {s t : State} {w : CommandWord} (hs : s.BusInv) (hb : s.busy = false)
    (h : runCommand w s = .next t) :
    ∃ es, t.trace = s.trace ++ es ∧ replay s.trace (true, false) = some (true, s.ce) ∧
      replay es (true, s.ce) = some (t.csn, t.ce) := by
  obtain ⟨es, u, hc, rfl⟩ := runCommand_conducts h
  obtain ⟨-, -, csn⟩ := hs.engineIdle hb
  obtain ⟨csn', hes⟩ := hc.pins csn
  refine ⟨es, hc.trace, csn ▸ hs.replayed, ?_⟩
  rw [accept_ce] at hes
  rw [hes, csn']

theorem State.BusInv.runCommand {s t : State} {w : CommandWord} (hs : s.BusInv) (hb : s.busy = false)
    (h : runCommand w s = .next t) : t.BusInv where
  replayed := by
    obtain ⟨es, htrace, hpre, hes⟩ := hs.replay_runCommand hb h
    rw [htrace, replay_append, hpre]
    exact hes
  engineIdle := hs.engineIdle.runCommand hb h
  latched := by
    obtain ⟨es, u, hc, rfl⟩ := runCommand_conducts h
    exact hc.lastStatus hs.latched

/-- A command cut off after `k` events has kept the protocol so far, and `rst` goes on from the levels it left (R232). -/
theorem State.BusInv.abandon {s u : State} {w : CommandWord} (hs : s.BusInv) (hb : s.busy = false)
    (h : Machine.runCommand w s = .next u) (k : Nat) : (abandon k s u).BusInv := by
  obtain ⟨es, htrace, hpre, hes⟩ := hs.replay_runCommand hb h
  obtain ⟨-, -, csn⟩ := hs.engineIdle hb
  obtain ⟨pins, hcut⟩ := replay_take k hes
  have hdrop : u.trace.drop s.trace.length = es := by simp [htrace]
  apply assertRst_busInv
  simp only [hdrop, csn, pinsAfter_of_replay hcut, replay_append, hpre, Option.bind_some, hcut]

theorem State.BusInv.radioEvent {s : State} (hs : s.BusInv) (e : RadioEvent) : (radioEvent e (dropInput s)).BusInv where
  replayed := hs.replayed
  engineIdle := hs.engineIdle
  latched := hs.latched

/-- Settles O51: a command's events go on from the pins' levels, whole or cut off by `rst`, and a radio event is none of them. -/
theorem stepKeepsTheBusInvariant : Obligations.StepKeepsTheBusInvariant := by
  intro s t hs h
  rcases step_next h with rfl | ⟨_, -, rfl⟩ | ⟨e, _, -, rfl⟩ | ⟨_, _, -, hb, hr⟩ | ⟨_, k, _, _, -, hb, hr, rfl⟩
  · exact hs
  · exact assertRst_busInv hs.replayed
  · exact hs.radioEvent e
  · exact hs.runCommand hb hr
  · exact hs.abandon hb hr k

/-- Settles O50: State.reset is what `rst` makes of it, and no event has happened. -/
theorem resetMeetsTheBusInvariant : Obligations.ResetMeetsTheBusInvariant := by
  unfold Obligations.ResetMeetsTheBusInvariant
  rw [State.reset, ← assertRst_resetWith]
  exact assertRst_busInv rfl

/-! The step and the reset state -/

/-- With BUSY = 0, a step with a word on the port runs it (R37). -/
theorem step_command {s : State} {w : CommandWord} {rest : List Input} (hb : s.busy = false)
    (hi : s.inputs = .command w :: rest) : step s = runCommand w s := by
  simp [step, hi, hb]

theorem runCommand_ok {s : State} {w : CommandWord} {i : Instr} (h : decode w = .ok i) :
    runCommand w s = complete (exec i (accept s)) := by
  simp [runCommand, h]

/-- Settles O5: the step is the decoded command on the accepted state, completed. -/
theorem stepRunsTheDecodedCommand : Obligations.StepRunsTheDecodedCommand := by
  intro s w rest i hb hi hd
  have haccept : accept s = { s with inputs := rest, busy := true } := by rw [accept, hi, List.tail_cons]
  rw [step_command hb hi, runCommand_ok hd, haccept]
  refine ⟨fun t he => ?_, fun r he => ?_⟩ <;> rw [he] <;> rfl

/-- Settles O6: neither input, a word at BUSY = 1 or none, is dealt with. -/
theorem busyPortAcceptsNothing : Obligations.BusyPortAcceptsNothing := by
  intro s w rest
  refine ⟨fun hb hi => ?_, fun hi => ?_⟩
  · simp [step, hi, hb]
  · simp [step, hi]

/-- Settles O45: each is the value written in `State.resetWith`, and an empty BUF reads as unwritten. -/
theorem resetHasTheGivenValues : Obligations.ResetHasTheGivenValues := fun _ =>
  ⟨rfl, rfl, rfl, rfl, fun _ => rfl, rfl, rfl, rfl, rfl, rfl, rfl, rfl, rfl⟩

end Sys2Proof.Machine
end

section
/-! SUPPORT. Completion (spec/60_exceptions.md R203): a command that nothing refuses completes, in a next state its caller names. -/

namespace Sys2Proof.Machine

/-- A controller that has the command, legal operands (R99, R100) and, where it matters, INIT_DONE (R236): the command completes
with its effect. -/
theorem exec_completes {s t : State} {i : Instr} (layer : i.needsSequenceLayer = true → s.cfg.seqPresent = true)
    (legal : i.operandsLegal s.cfg = true) (init : needsInit i = true → s.initDone = true) (h : effect s i = t) :
    exec i s = .next t := by
  have wf : i.wellFormed s.cfg = true := by
    rw [Instr.wellFormed, legal, Bool.and_true]
    cases hi : i.needsSequenceLayer with
    | false => simp
    | true => simp [layer hi]
  exact exec_eq_next_iff.mpr ⟨⟨wf, init⟩, h.symm⟩

/-- R100, in the spelling of the statements. -/
theorem addrInMask_of_clear {c : Config} {a : Byte} (h : clearBits a c.addrMask = 0#8) : c.addrInMask a = true := by
  simp [addrInMask_eq, addrOutside, h]

end Sys2Proof.Machine
end

section
/-! SUPPORT. The commands that receive, when an unknown slave has the bytes ready (spec/20_memory.md R62). READ_REG_MULTI is a
receiving transaction of TRANSACT's kind (R133), so `doTransact_oracle` covers it too. -/

namespace Sys2Proof.Machine

section
variable {s : State} {id : Nat} {later : List Byte}

/-- TRANSACT past its refusals, receiving or duplex (R127): the slave's bytes go to BUF. -/
theorem doTransact_oracle {cmd st : Byte} {rx : List Byte} {n : Nat} {d : Dir} (hd : d ≠ .send)
    (hs : s.slave = .oracle id (st :: rx ++ later)) (hl : rx.length = n) :
    ∃ (tx : List Byte) (k : Nat), doTransact cmd n d s = { s.afterFrame cmd d st (tx.zip rx) (.oracle id later) with
      draws := k, buf := s.buf.writeFrom 0 rx, resErr := false } := by
  cases d with
  | send => exact absurd rfl hd
  | recv =>
    have h := transact_oracle cmd st (List.replicate n s.cfg.dummyByte) rx later id .recv s hs (by simp [hl])
    exact ⟨_, s.draws, by simp only [doTransact, h, storeBuf, reportOk]; rfl⟩
  | duplex =>
    obtain ⟨tx, htx, e⟩ := readBufFrom_next n s
    have h := transact_oracle cmd st tx rx later id .duplex { s with draws := s.draws + s.unwrittenBelow n } hs
      (hl.trans htx.1.symm)
    exact ⟨tx, _, by simp only [doTransact, e, h, storeBuf, reportOk]; rfl⟩

/-- READ_REG_MULTI past its refusals is a receiving TRANSACT of the read command (R133). -/
theorem doReadRegMulti_eq (a : Byte) (n : Nat) (s : State) :
    doReadRegMulti a n s = doTransact (readCommand s.cfg a) n .recv s := rfl

/-- WRITE_REG past its refusal (R132). -/
theorem doWriteReg_oracle {a v st b : Byte} (hs : s.slave = .oracle id (st :: b :: later)) :
    doWriteReg a v s =
      { s.afterFrame (s.cfg.opcWRegister ||| a) .send st [(v, b)] (.oracle id later) with resErr := false } := by
  rw [doWriteReg, memWrite_oracle hs, reportOk]

/-- READ_REG past its refusal (R131). -/
theorem doReadReg_oracle {a st b : Byte} (hs : s.slave = .oracle id (st :: b :: later)) :
    doReadReg a s =
      { s.afterFrame (s.cfg.opcRRegister ||| a) .recv st [(s.cfg.dummyByte, b)] (.oracle id later) with
        resData := b, resErr := false } := by
  simp only [doReadReg, memReadByte_oracle hs, reportOk]

/-- READ_BIT past its refusal (R135). -/
theorem doReadBit_oracle {a st b : Byte} {k : Nat} (hk : k < 8) (hs : s.slave = .oracle id (st :: b :: later)) :
    doReadBit a k s =
      { s.afterFrame (s.cfg.opcRRegister ||| a) .recv st [(s.cfg.dummyByte, b)] (.oracle id later) with
        resData := b, resFlag := b.getLsbD k, resErr := false } := by
  simp only [doReadBit, memReadByte_oracle hs, reportOk, testBit_eq b k hk]

/-- POWER_DOWN (R185): CE low, then the power-up bit of the configuration byte read is cleared in the byte written. -/
theorem doPowerDown_oracle {st old st₂ b : Byte} (hs : s.slave = .oracle id (st :: old :: st₂ :: b :: later)) :
    doPowerDown s = { ((doCeSet false s).afterFrame (s.cfg.opcRRegister ||| s.cfg.regConfig) .recv st
        [(s.cfg.dummyByte, old)] (.oracle id (st₂ :: b :: later))).afterFrame (s.cfg.opcWRegister ||| s.cfg.regConfig)
        .send st₂ [(assignBit old s.cfg.bitPwrUp false, b)] (.oracle id later) with
      resData := assignBit old s.cfg.bitPwrUp false, resErr := false } := by
  rw [doPowerDown, doWriteBit_oracle (s := doCeSet false s) s.cfg.bitPwrUp false hs]
  rfl

/-- GET_PAYLOAD past its refusals (R184): the payload is in BUF before the data-ready bit is cleared. -/
theorem doGetPayload_oracle {st st₂ b : Byte} {rx : List Byte} (hs : s.slave = .oracle id (st :: rx ++ st₂ :: b :: later))
    (hl : rx.length = s.payloadSize.toNat) :
    (doGetPayload s).statusLatch = st₂ ∧ (doGetPayload s).buf = s.buf.writeFrom 0 rx ∧
      (doGetPayload s).slave = .oracle id later := by
  obtain ⟨tx, k, e⟩ := doReadRxPayload_oracle hs hl
  have paid : (doReadRxPayload s).slave = .oracle id (st₂ :: b :: later) := by rw [e]; rfl
  rw [doGetPayload, doWriteReg_oracle paid, e]
  exact ⟨rfl, rfl, rfl⟩

/-- GET_STATUS (R151). -/
theorem doGetStatus_oracle {st : Byte} (hs : s.slave = .oracle id (st :: later)) :
    doGetStatus s =
      { s.afterFrame s.cfg.opcNop .send st [] (.oracle id later) with resData := st, resErr := false } := by
  simp only [doGetStatus, commandOnly_oracle hs, reportOk]

/-- GET_TX_STATUS (R152). -/
theorem doGetTxStatus_oracle {st : Byte} (hs : s.slave = .oracle id (st :: later)) :
    doGetTxStatus s = { s.afterFrame s.cfg.opcNop .send st [] (.oracle id later) with
      resData := st, resCode := outcomeCode (txOutcome s.cfg st), resErr := false } := by
  simp only [doGetTxStatus, commandOnly_oracle hs, reportOk]

/-- GET_RETX_COUNT (R155). -/
theorem doGetRetxCount_oracle {st b : Byte} (hs : s.slave = .oracle id (st :: b :: later)) :
    doGetRetxCount s =
      { s.afterFrame (s.cfg.opcRRegister ||| s.cfg.regObserveTx) .recv st [(s.cfg.dummyByte, b)] (.oracle id later) with
        resData := retxCount s.cfg b, resErr := false } := by
  simp only [doGetRetxCount, memReadByte_oracle hs, reportOk]

/-- IS_DATA_READY with the data-ready bit set reads nothing more (R154). -/
theorem doIsDataReady_oracle_set {st : Byte} (hs : s.slave = .oracle id (st :: later))
    (hb : st.getLsbD s.cfg.bitRxDr = true) :
    doIsDataReady s =
      { s.afterFrame s.cfg.opcNop .send st [] (.oracle id later) with resFlag := true, resErr := false } := by
  simp only [doIsDataReady, commandOnly_oracle hs, hb, if_true, reportOk]

/-- With the bit clear, the FIFO-status byte of a second frame decides (R154). -/
theorem doIsDataReady_oracle_clear {st st₂ b : Byte} (hs : s.slave = .oracle id (st :: st₂ :: b :: later))
    (hb : st.getLsbD s.cfg.bitRxDr = false) :
    doIsDataReady s =
      { (s.afterFrame s.cfg.opcNop .send st [] (.oracle id (st₂ :: b :: later))).afterFrame
          (s.cfg.opcRRegister ||| s.cfg.regFifoStatus) .recv st₂ [(s.cfg.dummyByte, b)] (.oracle id later) with
        resFlag := !b.getLsbD s.cfg.bitRxEmpty, resErr := false } := by
  have h := memReadByte_oracle (a := s.cfg.regFifoStatus)
    (s := s.afterFrame s.cfg.opcNop .send st [] (.oracle id (st₂ :: b :: later))) rfl
  simp only [doIsDataReady, commandOnly_oracle hs, hb, h, reportOk]
  rfl

end

/-- Settles O9: every command `Conducts` itself, and what it hears is part of that relation. -/
theorem everyCommandHearsTheSlaveInOrder : Obligations.EveryCommandHearsTheSlaveInOrder := by
  intro s t i slave answers hs h
  obtain rfl := exec_next h
  obtain ⟨es, hc⟩ := effect_conducts s i
  obtain ⟨kept, heard⟩ := hc.hears slave answers hs
  exact ⟨es, hc.trace, heard, kept⟩

/-- Settles O8: each command is the explicit state its `_oracle` lemma gives, in which the slave's bytes stand. -/
theorem receivedBytesAreTheSlaves : Obligations.ReceivedBytesAreTheSlaves := by
  intro s slave st st₂ b b₂ rx later
  refine ⟨?transact, ?readRegMulti, ?readReg, ?writeBit, ?powerDown, ?payload, ?status, ?fifoStatus, ?retxCount⟩
  case transact =>
    intro cmd len d hd hl hlen hs
    obtain ⟨tx, k, e⟩ := doTransact_oracle (cmd := cmd) hd hs hl
    exact ⟨_, exec_completes nofun (by simpa [Instr.operandsLegal] using hlen) nofun e, rfl, receives_storeBuf s rx, rfl⟩
  case readRegMulti =>
    intro addr count ha hl hcount hs
    obtain ⟨tx, k, e⟩ := doTransact_oracle (cmd := readCommand s.cfg addr) (d := .recv) nofun hs hl
    exact ⟨_, exec_completes nofun (by simp [Instr.operandsLegal, addrInMask_of_clear ha, hcount]) nofun
      ((doReadRegMulti_eq ..).trans e), rfl, receives_storeBuf s rx, rfl⟩
  case readReg =>
    intro addr ha hs
    exact ⟨⟨_, exec_completes nofun (addrInMask_of_clear ha) nofun (doReadReg_oracle hs), rfl, rfl, rfl⟩, fun k =>
      ⟨_, exec_completes nofun (addrInMask_of_clear ha) nofun (doReadBit_oracle k.isLt hs), rfl, rfl, rfl, rfl⟩⟩
  case writeBit =>
    intro addr k v ha hs
    exact ⟨_, exec_completes nofun (addrInMask_of_clear ha) nofun (doWriteBit_oracle k.toNat v hs), rfl,
      assignBit_getLsbD b k.toNat v, rfl⟩
  case powerDown =>
    intro hseq hs
    exact ⟨_, exec_completes (fun _ => hseq) rfl nofun (doPowerDown_oracle hs), rfl,
      assignBit_getLsbD b s.cfg.bitPwrUp false, rfl⟩
  case payload =>
    intro hseq hinit hl
    refine ⟨fun hs => ?_, fun hs => ?_⟩
    · obtain ⟨tx, k, e⟩ := doReadRxPayload_oracle hs hl
      exact ⟨_, exec_completes (fun _ => hseq) rfl (fun _ => hinit) e, rfl, receives_storeBuf s rx, rfl⟩
    · obtain ⟨latch, buf, sl⟩ := doGetPayload_oracle hs hl
      exact ⟨_, exec_completes (fun _ => hseq) rfl (fun _ => hinit) rfl, latch, buf ▸ receives_storeBuf s rx, sl⟩
  case status =>
    intro hs
    exact ⟨⟨_, exec_completes nofun rfl nofun (doGetStatus_oracle hs), rfl, rfl, rfl⟩,
      ⟨_, exec_completes nofun rfl nofun (doGetTxStatus_oracle hs), rfl, rfl, rfl, rfl⟩, fun hb =>
      ⟨_, exec_completes nofun rfl nofun (doIsDataReady_oracle_set hs hb), rfl, rfl, rfl⟩⟩
  case fifoStatus =>
    intro hb hs
    exact ⟨_, exec_completes nofun rfl nofun (doIsDataReady_oracle_clear hs hb), rfl, rfl, rfl⟩
  case retxCount =>
    intro hs
    exact ⟨_, exec_completes nofun rfl nofun (doGetRetxCount_oracle hs), rfl, rfl, rfl⟩

end Sys2Proof.Machine
end

section
/-! SUPPORT. Single commands with the reference slave (spec/20_memory.md R80, R81), each as one explicit next state, and the
statements on REG_STATUS (R73) and on the FIFOs (R74, R75). -/

namespace Sys2Proof.Machine

theorem bitAt_getLsbD {i j : Nat} (hj : j < 8) : (bitAt i).getLsbD j = decide (j = i) := by
  have h := assignBit_getLsbD 0#8 i true j hj
  simpa [assignBit] using h

/-- R5: CLR_ALL is the three latched bits. -/
theorem clrAll_getLsbD {c : Config} (ok : c.Ok) {j : Nat} (hj : j < 8) :
    c.clrAll.getLsbD j = decide (j ∈ [c.bitRxDr, c.bitTxDs, c.bitMaxRt]) := by
  rw [ok.clrAll_mask, BitVec.getLsbD_or, BitVec.getLsbD_or, bitAt_getLsbD hj, bitAt_getLsbD hj, bitAt_getLsbD hj]
  simp [Bool.or_assoc]

/-- A write to REG_STATUS changes the status byte alone (R73). -/
theorem RefSlave.writeReg_status (c : Config) (r : RefSlave) (v : Byte) :
    r.writeReg c c.regStatus [v] = { r with st := clearBits r.st (v &&& c.clrAll) } := by
  simp [RefSlave.writeReg]

/-- Settles O52: WRITE_REG is one frame of `doWriteReg_reference`, and CLR_ALL has a 1 at the latched bits only. -/
theorem statusWriteClearsOnes : Obligations.StatusWriteClearsOnes := by
  intro s r v ok hs
  have mask : clearBits s.cfg.regStatus s.cfg.addrMask = 0#8 := ok.regs_in_mask _ (by simp [Config.regAddrs])
  obtain ⟨b, e⟩ := doWriteReg_reference ok hs mask v
  rw [RefSlave.writeReg_status] at e
  refine ⟨_, _, exec_completes nofun (addrInMask_of_clear mask) nofun e, rfl, rfl, fun j hj => ?_, rfl, rfl, rfl⟩
  simp only [clearBits, BitVec.getLsbD_and, BitVec.getLsbD_not, clrAll_getLsbD ok hj, hj, decide_true, Bool.true_and]

section
variable {s : State} {r : RefSlave}

/-- READ_REG past its refusal (R131). -/
theorem doReadReg_reference (ok : s.cfg.Ok) (hs : s.slave = .reference r) {a : Byte}
    (ha : clearBits a s.cfg.addrMask = 0#8) :
    doReadReg a s =
      { s.afterFrame (s.cfg.opcRRegister ||| a) .recv r.st [(s.cfg.dummyByte, r.regByte s.cfg a 0)]
          (.reference { r with frame := [] }) with resData := r.regByte s.cfg a 0, resErr := false } := by
  simp only [doReadReg, memReadByte_reference ok hs ha, reportOk]

theorem doFlushTx_reference (ok : s.cfg.Ok) (hs : s.slave = .reference r) :
    doFlushTx s = { s.afterFrame s.cfg.opcFlushTx .send r.st [] (.reference { r with txf := [], frame := [] }) with
      resErr := false } := by
  simp only [doFlushTx, commandOnly_reference hs, RefSlave.after_flushTx ok, reportOk]

theorem doFlushRx_reference (ok : s.cfg.Ok) (hs : s.slave = .reference r) :
    doFlushRx s = { s.afterFrame s.cfg.opcFlushRx .send r.st [] (.reference { r with rxf := [], frame := [] }) with
      resErr := false } := by
  simp only [doFlushRx, commandOnly_reference hs, RefSlave.after_flushRx ok, reportOk]

/-- A payload write is answered 0x00 (R81). -/
theorem RefSlave.answers_writeTx {c : Config} (ok : c.Ok) (r : RefSlave) (n : Nat) :
    r.answers c c.opcWTxPayload n = List.replicate n 0#8 := by
  obtain ⟨notRead, -⟩ := ok.fixed_not_register c.opcWTxPayload (by simp [Config.fixedCommands])
  have ne : c.opcWTxPayload ≠ c.opcRRxPayload := by
    have distinct := ok.fixed_nodup
    simp only [Config.fixedCommands, List.nodup_cons, List.mem_cons, not_or] at distinct
    exact Ne.symm distinct.1.1
  have zero : r.dataByte c c.opcWTxPayload = fun _ => 0#8 := by
    funext i
    rw [RefSlave.dataByte, if_neg notRead, if_neg ne]
  rw [RefSlave.answers, zero, List.map_const', List.length_range]

/-- Zeros coming back. -/
theorem zip_replicate_zero (tx : List Byte) : tx.zip (List.replicate tx.length (0#8 : Byte)) = tx.map fun m => (m, 0#8) := by
  induction tx with
  | nil => rfl
  | cons m tx ih => simp [List.replicate_succ, ih]

/-- WRITE_TX_PAYLOAD past its refusals (R141): the bytes sent are queued as one payload (R81). -/
theorem doWriteTxPayload_reference (ok : s.cfg.Ok) (hs : s.slave = .reference r) :
    ∃ tx k, s.sendsBuf s.payloadSize.toNat tx ∧ doWriteTxPayload s =
      { s.afterFrame s.cfg.opcWTxPayload .send r.st (tx.map fun m => (m, 0#8))
          (.reference { r with txf := r.txf ++ [tx], frame := [] }) with draws := k, resErr := false } := by
  obtain ⟨tx, k, htx, e⟩ := readBufFrom_tx s.payloadSize.toNat s
  have h := transact_reference s.cfg.opcWTxPayload tx r .send { s with draws := k } hs
  rw [RefSlave.answers_writeTx ok, zip_replicate_zero, RefSlave.after_writeTx ok] at h
  exact ⟨tx, k, htx, by simp only [doWriteTxPayload, e, h, reportOk]; rfl⟩

/-- READ_RX_PAYLOAD past its refusals (R142): the oldest payload is received and removed (R81). -/
theorem doReadRxPayload_reference (ok : s.cfg.Ok) (hs : s.slave = .reference r) :
    ∃ (tx : List Byte) (k : Nat), doReadRxPayload s =
      let rx := (List.range s.payloadSize.toNat).map fun i => (r.rxf.headD []).getD i 0#8
      { s.afterFrame s.cfg.opcRRxPayload .duplex r.st (tx.zip rx) (.reference { r with rxf := r.rxf.tail, frame := [] }) with
        draws := k, buf := s.buf.writeFrom 0 rx, resErr := false } := by
  obtain ⟨tx, k, htx, e⟩ := readBufFrom_tx s.payloadSize.toNat s
  have h := transact_reference s.cfg.opcRRxPayload tx r .duplex { s with draws := k } hs
  rw [RefSlave.answers_readRx ok, RefSlave.after_readRx ok, htx.1] at h
  exact ⟨tx, k, by simp only [doReadRxPayload, e, h, storeBuf, reportOk]; rfl⟩

end

/-- A byte stored from index 0 is read back at its index. -/
theorem Memory.read_writeFrom_range (m : Memory) (f : Nat → Byte) {n j : Nat} (hj : j < n) :
    (m.writeFrom 0 ((List.range n).map f)).read j = some (f j) := by
  simp [Memory.read_writeFrom, hj]

/-- R74, R81: REG_FIFO_STATUS shows an empty RX FIFO by its bit BIT_RX_EMPTY. -/
theorem RefSlave.regByte_fifoStatus {c : Config} (ok : c.Ok) (r : RefSlave) :
    (r.regByte c c.regFifoStatus 0).getLsbD c.bitRxEmpty = true ↔ r.rxf = [] := by
  have ne : c.regFifoStatus ≠ c.regStatus := by
    have := ok.regs_nodup
    simp [Config.regAddrs, List.nodup_append] at this
    grind
  have inByte : c.bitRxEmpty < 8 := ok.bits_in_byte _ (by simp)
  simp only [RefSlave.regByte, if_neg ne, if_true, true_and]
  split <;> simp [bitAt_getLsbD inByte, *]

/-- Settles O55: each command is the explicit state of its `_reference` lemma. -/
theorem payloadCommandsMoveTheFifos : Obligations.PayloadCommandsMoveTheFifos := by
  intro s r ok hs
  refine ⟨fun hseq hinit => ⟨?writeTx, ?readRx⟩, ?flushTx, ?flushRx, ?fifoStatus⟩
  case writeTx =>
    obtain ⟨tx, k, htx, e⟩ := doWriteTxPayload_reference ok hs
    exact ⟨_, _, tx, exec_completes (fun _ => hseq) rfl (fun _ => hinit) e, rfl, htx, rfl, rfl, rfl, rfl, rfl⟩
  case readRx =>
    obtain ⟨tx, k, e⟩ := doReadRxPayload_reference ok hs
    exact ⟨_, _, exec_completes (fun _ => hseq) rfl (fun _ => hinit) e, rfl,
      fun j hj => Memory.read_writeFrom_range s.buf _ hj, rfl, rfl, rfl, rfl⟩
  case flushTx =>
    exact ⟨_, _, exec_completes nofun rfl nofun (doFlushTx_reference ok hs), rfl, rfl, rfl, rfl, rfl⟩
  case flushRx =>
    exact ⟨_, _, exec_completes nofun rfl nofun (doFlushRx_reference ok hs), rfl, rfl, rfl, rfl, rfl⟩
  case fifoStatus =>
    have mask : clearBits s.cfg.regFifoStatus s.cfg.addrMask = 0#8 := ok.regs_in_mask _ (by simp [Config.regAddrs])
    exact ⟨_, exec_completes nofun (addrInMask_of_clear mask) nofun (doReadReg_reference ok hs mask), rfl,
      r.regByte_fifoStatus ok⟩

end Sys2Proof.Machine
end

section
/-! SUPPORT. What a sequence leaves in a register of the reference slave (spec/20_memory.md R71, R72): `Holds c s a v`, kept by the
commands that do not write `a`, and from it the pipe widths (R250) and the postures (R77, R215). -/

namespace Sys2Proof.Machine

/-- The controller has the parameters `c`, and the register `a` of its reference slave holds the byte `v`. -/
def Holds (c : Config) (s : State) (a v : Byte) : Prop := ∃ r, Tracks c s r ∧ r.regByte c a 0 = v

/-- The byte of a plain register is one of the register bytes proper, which the FIFOs and the status byte do not show in. -/
theorem PlainRegister.regByte_of_regs {c : Config} {a : Byte} (ha : PlainRegister c a) {r r' : RefSlave}
    (h : r'.regs = r.regs) : r'.regByte c a 0 = r.regByte c a 0 := by
  obtain ⟨-, notStatus, notFifo, -⟩ := ha
  simp only [RefSlave.regByte, if_neg notStatus, if_neg notFifo, h]

section
variable {c : Config} {s t : State} {r : RefSlave} {a v : Byte}

theorem Holds.keep (h : Holds c s a v) (hcfg : t.cfg = s.cfg) (hslave : t.slave = s.slave) : Holds c t a v := by
  obtain ⟨r, tracks, byte⟩ := h
  exact ⟨r, tracks.keep hcfg hslave, byte⟩

theorem Tracks.holds_writeReg (h : Tracks c s r) (ha : PlainRegister c a) (v : Byte) : Holds c (doWriteReg a v s) a v :=
  ⟨_, h.writeReg ha.1 v, h.byte_same ha v⟩

theorem Holds.writeReg_other (h : Holds c s a v) (ha : PlainRegister c a) {b : Byte} (hb : b ∈ c.regAddrs) (ne : b ≠ a)
    (w : Byte) : Holds c (doWriteReg b w s) a v := by
  obtain ⟨r, tracks, byte⟩ := h
  exact ⟨_, tracks.writeReg hb w, (RefSlave.regByte_writeReg_other r [w] ne ha.2.1 0).trans byte⟩

theorem Holds.flushTx (h : Holds c s a v) (ha : PlainRegister c a) : Holds c (doFlushTx s) a v := by
  obtain ⟨r, tracks, byte⟩ := h
  exact ⟨_, tracks.flushTx, (ha.regByte_of_regs rfl).trans byte⟩

theorem Holds.writeTx (h : Holds c s a v) (ha : PlainRegister c a) : Holds c (doWriteTxPayload s) a v := by
  obtain ⟨r, tracks, byte⟩ := h
  obtain ⟨tx, -, tracks'⟩ := tracks.writeTx
  exact ⟨_, tracks', (ha.regByte_of_regs rfl).trans byte⟩

theorem Holds.ceSet (h : Holds c s a v) (l : Bool) : Holds c (doCeSet l s) a v := h.keep rfl rfl

theorem Holds.delay (h : Holds c s a v) (n : Nat) : Holds c (doDelayMs n s) a v := h.keep rfl rfl

theorem Holds.reportOk (h : Holds c s a v) : Holds c (reportOk s) a v := h.keep rfl rfl

/-! The sequences -/

theorem Tracks.powerUpTx (h : Tracks c s r) : Holds c (doPowerUpTx s) c.regConfig c.cfgTx := by
  rw [doPowerUpTx_eq, h.cfg]
  exact h.holds_writeReg (plain_regConfig h.ok) c.cfgTx

/-- TRANSMIT past its refusals (R182): what follows POWER_UP_TX leaves REG_CONFIG alone. -/
theorem Tracks.transmit (h : Tracks c s r) : Holds c (doTransmit s) c.regConfig c.cfgTx := by
  have plain := plain_regConfig h.ok
  have ⟨_, notStatus, _⟩ := plain
  have lowered : Tracks c (doCeSet false s) r := h.keep rfl rfl
  have cleared := lowered.powerUpTx.writeReg_other plain (b := c.regStatus) (by simp [Config.regAddrs]) notStatus.symm c.clrAll
  have sent := (cleared.flushTx plain).writeTx plain
  rw [doTransmit, h.cfg]
  exact (((sent.ceSet true).delay c.tDwellMs).ceSet false).reportOk

/-- POWER_UP_RX (R183). -/
theorem Tracks.powerUpRx (h : Tracks c s r) : Holds c (doPowerUpRx s) c.regConfig c.cfgRx := by
  have lowered : Tracks c (doCeSet false s) r := h.keep rfl rfl
  have cleared := lowered.flushRx.writeReg (a := c.regStatus) (by simp [Config.regAddrs]) c.clrAll
  rw [doPowerUpRx, h.cfg]
  exact ((cleared.holds_writeReg (plain_regConfig h.ok) c.cfgRx).ceSet true).reportOk

/-- WRITE_BIT past its refusal (R136): the byte read, with one bit changed. -/
theorem Tracks.writeBit (h : Tracks c s r) (ha : PlainRegister c a) (k : Nat) (bit : Bool) :
    Holds c (doWriteBit a k bit s) a (assignBit (r.regByte c a 0) k bit) := by
  obtain ⟨rfl, ok, hs, shaped⟩ := h
  have read := memReadByte_reference ok hs (ok.regs_in_mask a ha.1)
  have byte : (memReadByte a s).1 = r.regByte s.cfg a 0 := by rw [read]
  have tracks : Tracks s.cfg (memReadByte a s).2 { r with frame := [] } := by
    rw [read]
    exact ⟨rfl, ok, rfl, shaped⟩
  simp only [doWriteBit, byte]
  exact (tracks.holds_writeReg ha (assignBit (r.regByte s.cfg a 0) k bit)).keep (by simp [doWriteReg]) (by simp [doWriteReg])

/-- POWER_DOWN (R185). -/
theorem Tracks.powerDown (h : Tracks c s r) :
    Holds c (doPowerDown s) c.regConfig (assignBit (r.regByte c c.regConfig 0) c.bitPwrUp false) := by
  have lowered : Tracks c (doCeSet false s) r := h.keep rfl rfl
  rw [doPowerDown, h.cfg]
  exact (lowered.writeBit (plain_regConfig h.ok) c.bitPwrUp false).reportOk

/-- Step 10 of INITIALIZE, and step 11, which writes another register (R171). -/
theorem Tracks.initFinish_width (h : Tracks c s r) (ha : a ∈ c.regRxPw) :
    Holds c (initFinish s) a (payloadByte s.payloadSize) := by
  have plain := plain_regRxPw h.ok ha
  have all : c.regRxPw.take c.nPipes = c.regRxPw := List.take_of_length_le (Nat.le_of_eq h.ok.pipes)
  obtain ⟨r', tracks, widths, -⟩ := h.flushTx.flushRx.pipeWidths c.regRxPw fun _ hb => plain_regRxPw h.ok hb
  have held : Holds c (writePipeWidths c.regRxPw (doFlushRx (doFlushTx s))) a (payloadByte s.payloadSize) :=
    ⟨r', tracks, by simpa using widths a ha⟩
  have ne : c.regConfig ≠ a := by
    have notLater : c.regConfig ∉ c.regAddrs.tail := (List.nodup_cons.mp h.ok.regs_nodup).1
    exact fun e => notLater (by simp [Config.regAddrs, e, ha])
  simp only [initFinish, doPowerUpTx_eq, h.cfg, all, tracks.cfg]
  exact held.writeReg_other plain (plain_regConfig h.ok).1 ne c.cfgTx

/-- INITIALIZE past its refusals leaves the clamped size in every pipe-width register (R171). -/
theorem Tracks.doInitialize_width (h : Tracks c s r) (ch p : Byte) (ha : a ∈ c.regRxPw) :
    Holds c (doInitialize ch p s) a (payloadByte (clampPayload c p)) := by
  have h₀ : Tracks c { s with
      payloadSize := clampPayload s.cfg p, initDone := true, channelCache := s.cfg.chSentinel, ce := false
      trace := s.trace ++ [.ce false, .wait (.ms s.cfg.tSettleMs)], resErr := false } r := h.keep rfl rfl
  obtain ⟨_, h₁⟩ := h₀.initRegisters
  obtain ⟨_, h₂⟩ := h₁.setChannel ch
  have finished := h₂.initFinish_width ha
  rw [doSetChannel_payloadSize, initRegisters_payloadSize, h.cfg] at finished
  rw [doInitialize_eq, h.cfg]
  exact finished.keep (by dsimp only) (by dsimp only)

end

/-- R95 c, as the data byte that goes into a register. -/
theorem payloadByte_toNat (n : BitVec 6) : (payloadByte n).toNat = n.toNat := by
  rw [payloadByte, BitVec.toNat_setWidth]
  exact Nat.mod_eq_of_lt (by omega)

/-- Settles O54: INITIALIZE leaves the clamped size in each register, and a read of one returns the byte it holds. -/
theorem pipeWidthsReadBack : Obligations.PipeWidthsReadBack := by
  intro s r channel payloadSize ok hseq hs shaped hp
  refine ⟨doInitialize channel payloadSize s,
    exec_completes (fun _ => hseq) (by simpa [Instr.operandsLegal] using hp) nofun rfl, fun a ha => ?_⟩
  have tracks : Tracks s.cfg s r := ⟨rfl, ok, hs, shaped⟩
  obtain ⟨r', tracks', byte⟩ := tracks.doInitialize_width channel payloadSize ha
  have mask := ok.regs_in_mask a (plain_regRxPw ok ha).1
  rw [← tracks'.cfg] at mask ok
  refine ⟨_, exec_completes nofun (addrInMask_of_clear mask) nofun (doReadReg_reference ok tracks'.slave mask), ?_⟩
  dsimp only
  rw [tracks'.cfg, byte, payloadByte_toNat, clampPayload_toNat tracks.ok.maxPayload_width]

/-! Postures (R77, R215) -/

theorem posture_powerDown {c : Config} {config : Byte} (h : config.getLsbD c.bitPwrUp = false) (ce : Bool) :
    posture c config ce = .powerDown := by
  simp [posture, h]

theorem posture_cfgRx {c : Config} (ok : c.Ok) : posture c c.cfgRx true = .listening := by
  obtain ⟨up, rx⟩ := ok.cfgRx_role
  simp [posture, up, rx]

theorem posture_cfgTx {c : Config} (ok : c.Ok) : posture c c.cfgTx false = .standby := by
  obtain ⟨up, -⟩ := ok.cfgTx_role
  simp [posture, up]

/-- With CFG_TX in REG_CONFIG and CE low the slave is transmit-ready (R215). -/
theorem Holds.transmitReady {c : Config} {t : State} (ok : c.Ok) (h : Holds c t c.regConfig c.cfgTx) (hce : t.ce = false) :
    ∃ r, t.slave = .reference r ∧ posture c (r.regByte c c.regConfig 0) t.ce = .standby ∧
      (r.regByte c c.regConfig 0).getLsbD c.bitPwrUp = true ∧
      (r.regByte c c.regConfig 0).getLsbD c.bitPrimRx = false := by
  obtain ⟨r, tracks, byte⟩ := h
  refine ⟨r, tracks.slave, ?_⟩
  rw [byte, hce]
  exact ⟨posture_cfgTx ok, ok.cfgTx_role⟩

/-- Settles O56: what each sequence leaves in REG_CONFIG, with the level it leaves at CE, is the posture. -/
theorem sequencesReachTheirPostures : Obligations.SequencesReachTheirPostures := by
  intro s r ok hseq hs shaped
  have tracks : Tracks s.cfg s r := ⟨rfl, ok, hs, shaped⟩
  refine ⟨?powerUpRx, ?powerUpTx, ?transmit, ?initController, ?powerDown⟩
  case powerUpRx =>
    obtain ⟨r', tracks', byte⟩ := tracks.powerUpRx
    refine ⟨_, r', exec_completes (fun _ => hseq) rfl nofun rfl, tracks'.slave, ?_⟩
    rw [byte]
    exact posture_cfgRx ok
  case powerUpTx =>
    intro hce
    obtain ⟨r', ready⟩ := tracks.powerUpTx.transmitReady ok (by rw [doPowerUpTx_ce, hce])
    exact ⟨_, r', exec_completes (fun _ => hseq) rfl nofun rfl, ready⟩
  case transmit =>
    intro hinit
    obtain ⟨r', ready⟩ := tracks.transmit.transmitReady ok rfl
    exact ⟨_, r', exec_completes (fun _ => hseq) rfl (fun _ => hinit) rfl, ready⟩
  case initController =>
    intro channel payloadSize hp
    have held : Holds s.cfg (doInitialize channel payloadSize s) s.cfg.regConfig s.cfg.cfgTx :=
      tracks.initialize_config channel payloadSize
    obtain ⟨r', ready⟩ := held.transmitReady ok (by simp [doInitialize_eq])
    exact ⟨_, r', exec_completes (fun _ => hseq) (by simpa [Instr.operandsLegal] using hp) nofun rfl, ready⟩
  case powerDown =>
    obtain ⟨r', tracks', byte⟩ := tracks.powerDown
    refine ⟨_, r', exec_completes (fun _ => hseq) rfl nofun rfl, tracks'.slave, ?_⟩
    have inByte : s.cfg.bitPwrUp < 8 := ok.bits_in_byte _ (by simp)
    apply posture_powerDown
    rw [byte, assignBit_getLsbD _ _ _ _ inByte, if_pos rfl]

end Sys2Proof.Machine
end

section
/-! SUPPORT. The address registers of the reference slave (spec/20_memory.md R71, R72): what SET_ADDRESS writes from BUF (R173) is
what a read of the register puts back into BUF. -/

namespace Sys2Proof.Machine

/-- The first ADDR_LEN bytes of the register `a` are those of the buffer `m`. -/
def HoldsAddress (c : Config) (r : RefSlave) (a : Byte) (m : Memory) : Prop :=
  ∀ j, j < c.addrLen → m.read j = some (r.regByte c a j)

/-- One of the two registers that hold an address (R63). -/
def AddressRegister (c : Config) (a : Byte) : Prop := a = c.regRxAddrP0 ∨ a = c.regTxAddr

theorem AddressRegister.mem_regAddrs {c : Config} {a : Byte} (h : AddressRegister c a) : a ∈ c.regAddrs := by
  rcases h with rfl | rfl <;> simp [Config.regAddrs]

/-- R63: neither is a register with a rule of its own. -/
theorem AddressRegister.ne_special {c : Config} {a : Byte} (ok : c.Ok) (h : AddressRegister c a) :
    a ≠ c.regStatus ∧ a ≠ c.regFifoStatus ∧ a ≠ c.regObserveTx := by
  have distinct := ok.regs_nodup
  simp [Config.regAddrs, List.nodup_append] at distinct
  rcases h with rfl | rfl <;> grind

theorem regRxAddrP0_ne_regTxAddr {c : Config} (ok : c.Ok) : c.regRxAddrP0 ≠ c.regTxAddr := by
  have distinct := ok.regs_nodup
  simp [Config.regAddrs, List.nodup_append] at distinct
  grind

section
variable {c : Config} {s : State} {r : RefSlave} {a : Byte}

/-- WRITE_REG_MULTI of ADDR_LEN written bytes (R134): the register holds them, and the other address register what it held. -/
theorem Tracks.writeAddress (h : Tracks c s r) (ha : AddressRegister c a)
    (written : ∀ j, j < c.addrLen → ∃ b, s.buf.read j = some b) :
    ∃ r', Tracks c (doWriteRegMulti a c.addrLen s) r' ∧ HoldsAddress c r' a s.buf ∧
      ∀ b m, AddressRegister c b → a ≠ b → HoldsAddress c r b m → HoldsAddress c r' b m := by
  obtain ⟨tx, ⟨hlen, htx⟩, -, tracks⟩ := h.writeRegMulti ha.mem_regAddrs c.addrLen
  obtain ⟨notStatus, notFifo, notObserve⟩ := ha.ne_special h.ok
  have inside : a.toNat < r.regs.length := by
    rw [h.shaped.1]
    exact Nat.lt_succ_of_le (clearBits_zero_le (h.ok.regs_in_mask a ha.mem_regAddrs))
  have width : (r.regs.getD a.toNat []).length = tx.length := by
    rw [h.shaped.2 _ inside, if_pos (ha.imp (congrArg BitVec.toNat) (congrArg BitVec.toNat)), hlen]
  refine ⟨_, tracks, fun j hj => ?_, fun b m hb ne held j hj => (held j hj).trans (congrArg some ?_)⟩
  · obtain ⟨b, hb⟩ := written j hj
    have byte := RefSlave.regByte_writeReg (c := c) r notStatus notFifo notObserve inside width j
    rw [List.getD_eq_getElem?_getD, htx j b hj hb] at byte
    exact hb.trans (congrArg some byte.symm)
  · exact (RefSlave.regByte_writeReg_other r tx ne (hb.ne_special h.ok).1 j).symm

/-- SET_ADDRESS (R173). -/
theorem Tracks.setAddress (h : Tracks c s r) (own : Bool) (written : ∀ j, j < c.addrLen → ∃ b, s.buf.read j = some b) :
    ∃ r', Tracks c (doSetAddress own s) r' ∧ HoldsAddress c r' c.regRxAddrP0 s.buf ∧
      (own = false → HoldsAddress c r' c.regTxAddr s.buf) := by
  obtain ⟨r₁, tracks₁, rx₁, -⟩ := h.writeAddress (.inl rfl) written
  rw [doSetAddress, h.cfg]
  cases own with
  | true => exact ⟨r₁, tracks₁.keep rfl rfl, rx₁, nofun⟩
  | false =>
    obtain ⟨r₂, tracks₂, tx₂, keeps⟩ := tracks₁.writeAddress (.inr rfl) (by simpa [doWriteRegMulti] using written)
    refine ⟨r₂, tracks₂.keep rfl rfl, keeps _ _ (.inl rfl) (regRxAddrP0_ne_regTxAddr h.ok).symm rx₁, fun _ => ?_⟩
    simpa [doWriteRegMulti] using tx₂

/-- READ_REG_MULTI of a register that holds BUF's bytes (R133) completes and leaves BUF as it was. -/
theorem Tracks.readAddress (h : Tracks c s r) (ha : AddressRegister c a) {m : Memory} (hm : s.buf = m)
    (held : HoldsAddress c r a m) :
    ∃ u, exec (.readRegMulti a (BitVec.ofNat 8 c.addrLen)) s = .next u ∧ ∀ j, u.buf.read j = m.read j := by
  obtain ⟨rfl, ok, hs, -⟩ := h
  have mask := ok.regs_in_mask a ha.mem_regAddrs
  have fits := ok.addr_fits
  have count : (BitVec.ofNat 8 s.cfg.addrLen).toNat = s.cfg.addrLen := by
    have narrow := ok.bufSize_width
    rw [BitVec.toNat_ofNat]
    omega
  refine ⟨doReadRegMulti a s.cfg.addrLen s, exec_completes nofun ?_ nofun (by rw [effect, count]), fun j => ?_⟩
  · simp [Instr.operandsLegal, addrInMask_of_clear mask, count, fits]
  · rw [doReadRegMulti_reference ok hs mask, hm]
    by_cases hj : j < s.cfg.addrLen
    · rw [Memory.read_writeFrom_range m _ hj, held j hj]
    · simp [Memory.read_writeFrom, hj]

end

/-- Settles O53: SET_ADDRESS leaves BUF's bytes in the registers, and a read of them stores over BUF what it held. -/
theorem addressReadsBack : Obligations.AddressReadsBack := by
  intro s r own ok hseq hs shaped written
  have tracks : Tracks s.cfg s r := ⟨rfl, ok, hs, shaped⟩
  obtain ⟨r', tracks', rx, tx⟩ := tracks.setAddress own written
  have buf : (doSetAddress own s).buf = s.buf := by cases own <;> simp [doSetAddress, doWriteRegMulti]
  exact ⟨_, exec_completes (fun _ => hseq) rfl nofun rfl, tracks'.readAddress (.inl rfl) buf rx,
    fun hown => tracks'.readAddress (.inr rfl) buf (tx hown)⟩

end Sys2Proof.Machine
end

section
/-! SUPPORT. The decoder read backwards (spec/30_encoding.md R93, R97, R98): which HOP values select a command, and which words
decode to a given one. -/

namespace Sys2Proof

/-! Words compared field by field -/

theorem word_eq_iff_fields {v w : CommandWord} :
    v = w ↔ hopField v = hopField w ∧ aField v = aField w ∧ bField v = bField w ∧ cField v = cField w := by
  refine ⟨by rintro rfl; exact ⟨rfl, rfl, rfl, rfl⟩, fun ⟨hop, a, b, c⟩ => ?_⟩
  rw [← packWord_fields v, hop, a, b, c, packWord_fields]

/-- R93: `encode i` is the part of `w` in the mask `m` when each of its fields is the part of `w`'s in that field of `m`. -/
theorem encode_eq_and_iff (i : Instr) (w m : CommandWord) :
    encode i = w &&& m ↔ hopField w &&& hopField m = i.hop ∧ aField w &&& aField m = i.fields.1 ∧
      bField w &&& bField m = i.fields.2.1 ∧ cField w &&& cField m = i.fields.2.2 := by
  obtain ⟨hop, a, b, c⟩ := encode_fields i
  rw [eq_comm, word_eq_iff_fields, hop, a, b, c]
  simp only [hopField, aField, bField, cField, BitVec.extractLsb'_and]

/-! Operands in their fields (R94, R96) -/

/-- An operand of all 8 bits. -/
theorem and_full (f : Byte) : f &&& 0xFF#8 = f := BitVec.and_allOnes

/-- The low bits of a field that holds an operand are that operand. -/
theorem extractLsb'_setWidth_low {n : Nat} (hn : n ≤ 8) (k : BitVec n) : (k.setWidth 8).extractLsb' 0 n = k := by
  rw [← BitVec.setWidth_eq_extractLsb' hn, BitVec.setWidth_setWidth_of_le _ hn, BitVec.setWidth_eq]

/-- An operand `k` of the low `n` bits: the bits of the field above them are ignored. -/
theorem and_low_eq_iff {n : Nat} (hn : n ≤ 8) (f : Byte) (k : BitVec n) :
    f &&& (BitVec.allOnes n).setWidth 8 = k.setWidth 8 ↔ f.extractLsb' 0 n = k := by
  have low : f &&& (BitVec.allOnes n).setWidth 8 = (f.extractLsb' 0 n).setWidth 8 := by
    ext j hj
    simp [BitVec.getLsbD_eq_getElem hj, Bool.and_comm]
  rw [low]
  refine ⟨fun h => ?_, congrArg _⟩
  have trunc := congrArg (BitVec.extractLsb' 0 n) h
  rwa [extractLsb'_setWidth_low hn, extractLsb'_setWidth_low hn] at trunc

theorem and_code_eq_iff {f : Byte} {k : BitVec 2} : f &&& 3#8 = k.setWidth 8 ↔ f.extractLsb' 0 2 = k :=
  and_low_eq_iff (by decide) f k

theorem and_bitIndex_eq_iff {f : Byte} {k : BitVec 3} : f &&& 7#8 = k.setWidth 8 ↔ f.extractLsb' 0 3 = k :=
  and_low_eq_iff (by decide) f k

theorem bitZero_eq_iff {f : Byte} {v : Bool} : f.extractLsb' 0 1 = BitVec.ofBool v ↔ f.getLsbD 0 = v := by
  have bit : f.extractLsb' 0 1 = BitVec.ofBool (f.getLsbD 0) := by
    ext j hj
    obtain rfl : j = 0 := by omega
    simp
  rw [bit, BitVec.ofBool_eq_iff_eq]

theorem and_boolField_eq_iff {f : Byte} {v : Bool} : f &&& 1#8 = boolField v ↔ f.getLsbD 0 = v := by
  have mask : (1#8 : Byte) = (BitVec.allOnes 1).setWidth 8 := rfl
  rw [boolField, mask, and_low_eq_iff (by decide), bitZero_eq_iff]

theorem boolField_and_one (v : Bool) : boolField v &&& 1#8 = boolField v := by cases v <;> rfl

/-- A 16-bit operand fills two fields, the high byte first. -/
theorem append_eq_iff {hi lo : Byte} {ms : BitVec 16} :
    hi ++ lo = ms ↔ hi = ms.extractLsb' 8 8 ∧ lo = ms.extractLsb' 0 8 := by
  refine ⟨?_, ?_⟩
  · rintro rfl
    exact ⟨BitVec.extractLsb'_append_eq_left.symm, BitVec.extractLsb'_append_eq_right.symm⟩
  · rintro ⟨rfl, rfl⟩
    exact highLow ms

theorem dirOfCode_eq_iff {k : BitVec 2} {d : Option Dir} : dirOfCode k = d ↔ k = dirCode d :=
  ⟨by rintro rfl; simp, by rintro rfl; simp⟩

theorem dataRateOfCode_eq_iff {k : BitVec 2} {d : Option DataRate} : dataRateOfCode k = d ↔ k = dataRateCode d :=
  ⟨by rintro rfl; simp, by rintro rfl; simp⟩

theorem txPowerOfCode_eq_iff {k : BitVec 2} {p : TxPower} : txPowerOfCode k = p ↔ k = txPowerCode p :=
  ⟨by rintro rfl; simp, by rintro rfl; simp⟩

/-! The command a word selects -/

/-- The HOP values of R97. -/
def commandHops : List Byte :=
  [0x01, 0x02, 0x10, 0x11, 0x12, 0x13, 0x14, 0x15, 0x20, 0x21, 0x22, 0x23, 0x30, 0x31, 0x32,
    0x40, 0x41, 0x42, 0x43, 0x50, 0x51, 0x52, 0x53, 0x60, 0x61, 0x62, 0x63, 0x64]

theorem hop_mem_commandHops (i : Instr) : i.hop ∈ commandHops := by
  cases i <;> simp [Instr.hop, commandHops]

/-- R97, R98: a word decodes to a command of its own HOP, or it is rejected, its HOP being none of the 28. -/
theorem decode_cases (w : CommandWord) :
    (∃ i, decode w = .ok i ∧ i.hop = hopField w) ∨
      (decode w = .error (.reservedHop (hopField w)) ∧ hopField w ∉ commandHops) := by
  unfold decode
  split
  case h_29 =>
    refine .inr ⟨rfl, ?_⟩
    simp only [commandHops, List.mem_cons, List.not_mem_nil, or_false, not_or, ← BitVec.toNat_inj]
    and_intros <;> assumption
  all_goals exact .inl ⟨_, rfl, BitVec.eq_of_toNat_eq (Eq.symm ‹_›)⟩

theorem hop_of_decode {w : CommandWord} {i : Instr} (h : decode w = .ok i) : i.hop = hopField w := by
  obtain ⟨j, hj, hop⟩ | ⟨he, -⟩ := decode_cases w
  · obtain rfl : j = i := Except.ok.inj (hj.symm.trans h)
    exact hop
  · cases he.symm.trans h

/-- Every command uses the whole HOP field (R93). -/
theorem hopField_usedBits (i : Instr) : hopField i.usedBits = 0xFF#8 := by
  cases i <;> simp [Instr.usedBits, hopField]

/-- R94: for a word of the command's HOP, the decoder reads the operands of `i` exactly where its fields have them. -/
theorem decode_eq_ok_iff_fields {w : CommandWord} {i : Instr} (h : i.hop = hopField w) :
    decode w = .ok i ↔ aField w &&& aField i.usedBits = i.fields.1 ∧ bField w &&& bField i.usedBits = i.fields.2.1 ∧
      cField w &&& cField i.usedBits = i.fields.2.2 := by
  -- With the fields of `w` as variables, the simp calls below evaluate only those of the mask.
  cases i <;>
    simp only [decode, ← h, Instr.hop, Instr.fields, Instr.usedBits, BitVec.reduceToNat, Except.ok.injEq] <;>
    generalize aField w = a, bField w = b, cField w = c
  case transact => simp [aField, bField, cField, and_full, and_code_eq_iff, dirOfCode_eq_iff]
  case setRfParameters =>
    simp [aField, bField, cField, and_code_eq_iff, dataRateOfCode_eq_iff, txPowerOfCode_eq_iff]
  case readBit | writeBit => simp [aField, bField, cField, and_full, and_bitIndex_eq_iff, and_boolField_eq_iff]
  case ceSet | setAddress => simp [aField, bField, cField, and_boolField_eq_iff]
  case delayMs => simp [aField, bField, cField, and_full, append_eq_iff]
  all_goals simp [aField, bField, cField, and_full]

/-- R93, R94: the words that decode to a command are those that agree with its encoding on the bits it uses. -/
theorem decode_eq_ok_iff (w : CommandWord) (i : Instr) : decode w = .ok i ↔ encode i = w &&& i.usedBits := by
  rw [encode_eq_and_iff, hopField_usedBits, and_full]
  refine ⟨fun h => ?_, fun ⟨hop, operands⟩ => (decode_eq_ok_iff_fields hop.symm).mpr operands⟩
  have hop := hop_of_decode h
  exact ⟨hop.symm, (decode_eq_ok_iff_fields hop).mp h⟩

/-- R93: the encoder writes 0 to every bit its command does not use. -/
theorem encode_and_usedBits (i : Instr) : encode i &&& i.usedBits = encode i := by
  obtain ⟨hop, a, b, c⟩ := encode_fields i
  rw [eq_comm, encode_eq_and_iff, hop, a, b, c, hopField_usedBits, and_full]
  refine ⟨rfl, ?_⟩
  cases i <;> simp only [Instr.fields, Instr.usedBits]
  case transact | setRfParameters => simp [aField, bField, cField, and_full, and_code_eq_iff, extractLsb'_setWidth_low]
  case readBit | writeBit =>
    simp [aField, bField, cField, and_full, and_bitIndex_eq_iff, extractLsb'_setWidth_low, boolField_and_one]
  case ceSet | setAddress => simp [aField, bField, cField, boolField_and_one]
  all_goals simp [aField, bField, cField, and_full]

/-! The obligations -/

/-- Settles O1: the encoding of a command agrees with itself on the bits the command uses. -/
theorem decodeOfEncodeIsTheCommand : Obligations.DecodeOfEncodeIsTheCommand := fun i =>
  (decode_eq_ok_iff (encode i) i).mpr (encode_and_usedBits i).symm

/-- Settles O2: both parts are `decode_eq_ok_iff`, read from the word and to the other. -/
theorem unusedBitsAreIgnored : Obligations.UnusedBitsAreIgnored := by
  intro w i h
  have word : encode i = w &&& i.usedBits := (decode_eq_ok_iff w i).mp h
  exact ⟨word, fun w' same => (decode_eq_ok_iff w' i).mpr (word.trans same.symm)⟩

/-- Settles O4: each word is evaluated by the decoder. -/
theorem workedWordsDecode : Obligations.WorkedWordsDecode :=
  ⟨rfl, rfl, rfl, rfl, rfl, rfl, rfl, rfl, rfl, rfl, rfl, rfl⟩

end Sys2Proof
end

section
/-! SUPPORT. Commands a controller does not have (spec/30_encoding.md R98, R104), and the transactions the payload commands
stand for (spec/42_payload_fifo.md R140). -/

namespace Sys2Proof.Machine

/-- Settles O3: a word that selects no command is rejected, and a step that accepts it is refused. -/
theorem reservedHopIsRefused : Obligations.ReservedHopIsRefused := by
  intro w
  change (hopField w ∈ commandHops → _) ∧ (hopField w ∉ commandHops → _)
  obtain ⟨i, hi, hop⟩ | ⟨rejected, reserved⟩ := decode_cases w
  · have known : hopField w ∈ commandHops := hop ▸ hop_mem_commandHops i
    exact ⟨fun _ => ⟨i, hi, hop⟩, absurd known⟩
  · refine ⟨fun known => absurd known reserved, fun _ => ⟨rejected, fun s rest hb hi => ?_⟩⟩
    rw [step_command hb hi, runCommand, rejected]

/-- R104 by HOP: 0x50 to 0x64, 0x20 and 0x21. -/
theorem needsSequenceLayer_iff_hop (i : Instr) :
    i.needsSequenceLayer = true ↔ (0x50#8 ≤ i.hop ∧ i.hop ≤ 0x64#8) ∨ i.hop = 0x20#8 ∨ i.hop = 0x21#8 := by
  cases i <;> simp [Instr.hop, Instr.needsSequenceLayer]

/-- R104: a command of the sequence layer is refused where the layer is absent, before any other check. -/
theorem exec_without_sequenceLayer {s : State} {i : Instr} (hs : s.cfg.seqPresent = false)
    (hi : i.needsSequenceLayer = true) : exec i s = .refused .illegalCommand := by
  rw [exec_eq_refusalOf, refusalOf, hi, hs]
  rfl

/-- TRANSACT of PAYLOAD_SIZE bytes (R127), when BUF holds that many. -/
theorem exec_transact_payloadSize {s : State} (fits : s.payloadSize.toNat ≤ s.cfg.bufSize) (cmd : Byte) (d : Dir) :
    exec (.transact cmd (s.payloadSize.setWidth 8) (some d)) s = .next (doTransact cmd s.payloadSize.toNat d s) := by
  have length : (s.payloadSize.setWidth 8).toNat = s.payloadSize.toNat := BitVec.toNat_setWidth_of_le (by decide)
  exact exec_completes nofun (by simp [Instr.operandsLegal, length, fits]) nofun (by rw [effect, length])

/-- Settles O39: each payload command completes with the effect of its transaction. -/
theorem payloadCommandsAreTransactions : Obligations.PayloadCommandsAreTransactions := by
  refine ⟨fun s i hs hop => ?_, fun s hseq hinit fits => ?_⟩
  · exact exec_without_sequenceLayer hs ((needsSequenceLayer_iff_hop i).mpr hop)
  · rw [exec_transact_payloadSize fits, exec_transact_payloadSize fits]
    have write : effect s .writeTxPayload = doTransact s.cfg.opcWTxPayload s.payloadSize.toNat .send s := rfl
    have read : effect s .readRxPayload = doTransact s.cfg.opcRRxPayload s.payloadSize.toNat .duplex s := rfl
    exact ⟨exec_completes (fun _ => hseq) rfl (fun _ => hinit) write,
      exec_completes (fun _ => hseq) rfl (fun _ => hinit) read⟩

end Sys2Proof.Machine
end

section
/-! SUPPORT. TRANSACT (spec/40_bus_transaction.md R127): its refusals, and past them one frame for each direction (R123), each as one
explicit next state. -/

namespace Sys2Proof.Machine

/-- R127: with a direction, only a length above BUF_SIZE is refused. -/
theorem exec_transact_some (cmd len : Byte) (d : Dir) (s : State) :
    exec (.transact cmd len (some d)) s =
      if s.cfg.bufSize < len.toNat then .refused .lengthOutOfRange else .next (doTransact cmd len.toNat d s) := by
  simp only [exec, execTransact, tooLong, decide_eq_true_eq]

/-- SEND and DUPLEX send BUF as it was before the frame (R123). -/
theorem transact_buf_next (cmd : Byte) (n : Nat) (d : Dir) (s : State) :
    ∃ tx st rx sl, s.sendsBuf n tx ∧ rx.length = n ∧ transact cmd (readBufFrom 0 n s).1 d (readBufFrom 0 n s).2 =
      (st, rx, { s.afterFrame cmd d st (tx.zip rx) sl with draws := s.draws + s.unwrittenBelow n }) := by
  obtain ⟨tx, htx, hr⟩ := readBufFrom_next n s
  obtain ⟨st, rx, sl, hl, h⟩ := transact_next cmd tx d { s with draws := s.draws + s.unwrittenBelow n }
  exact ⟨tx, st, rx, sl, htx, hl.trans htx.1, by rw [hr, h]; rfl⟩

/-- SEND: what comes in is discarded. -/
theorem doTransact_send_next (cmd : Byte) (n : Nat) (s : State) :
    ∃ tx st rx sl, s.sendsBuf n tx ∧ rx.length = n ∧ doTransact cmd n .send s =
      { s.afterFrame cmd .send st (tx.zip rx) sl with draws := s.draws + s.unwrittenBelow n, resErr := false } := by
  obtain ⟨tx, st, rx, sl, htx, hl, h⟩ := transact_buf_next cmd n .send s
  exact ⟨tx, st, rx, sl, htx, hl, by simp only [doTransact, h, reportOk]⟩

/-- RECV: DUMMY_BYTE goes out each time, and what comes in is stored. -/
theorem doTransact_recv_next (cmd : Byte) (n : Nat) (s : State) :
    ∃ st rx sl, rx.length = n ∧ doTransact cmd n .recv s =
      { s.afterFrame cmd .recv st (rx.map fun b => (s.cfg.dummyByte, b)) sl with
        buf := s.buf.writeFrom 0 rx, resErr := false } := by
  obtain ⟨st, rx, sl, hl, h⟩ := transact_next cmd (List.replicate n s.cfg.dummyByte) .recv s
  obtain rfl : rx.length = n := by simpa using hl
  exact ⟨st, rx, sl, rfl, by simp only [doTransact, h, zip_replicate, storeBuf, reportOk, afterFrame_buf]⟩

/-- DUPLEX: what comes in is stored over what went out. -/
theorem doTransact_duplex_next (cmd : Byte) (n : Nat) (s : State) :
    ∃ tx st rx sl, s.sendsBuf n tx ∧ rx.length = n ∧ doTransact cmd n .duplex s =
      { s.afterFrame cmd .duplex st (tx.zip rx) sl with
        draws := s.draws + s.unwrittenBelow n, buf := s.buf.writeFrom 0 rx, resErr := false } := by
  obtain ⟨tx, st, rx, sl, htx, hl, h⟩ := transact_buf_next cmd n .duplex s
  exact ⟨tx, st, rx, sl, htx, hl, by simp only [doTransact, h, storeBuf, reportOk, afterFrame_buf]⟩

/-- Settles O7: the refusals are those of `exec_transact_some`, and each direction is the one frame of its `doTransact` lemma. -/
theorem transactRunsOneFrame : Obligations.TransactRunsOneFrame := by
  refine ⟨fun w hop => by simp only [decode, hop, BitVec.reduceToNat], fun s cmd len => ?_⟩
  refine ⟨rfl, fun d long => ?_, fun fits => ?_⟩
  · rw [exec_transact_some, if_pos long]
  · have completes (d : Dir) : exec (.transact cmd len (some d)) s = .next (doTransact cmd len.toNat d s) := by
      rw [exec_transact_some, if_neg (Nat.not_lt.mpr fits)]
    refine ⟨?send, ?recv, ?duplex⟩
    case send =>
      obtain ⟨tx, st, rx, sl, sends, hl, h⟩ := doTransact_send_next cmd len.toNat s
      exact ⟨tx, st, rx, sl, _, sends, hl, by rw [completes, h]⟩
    case recv =>
      obtain ⟨st, rx, sl, hl, h⟩ := doTransact_recv_next cmd len.toNat s
      exact ⟨st, rx, sl, _, hl, receives_storeBuf s rx, by rw [completes, h]⟩
    case duplex =>
      obtain ⟨tx, st, rx, sl, sends, hl, h⟩ := doTransact_duplex_next cmd len.toNat s
      exact ⟨tx, st, rx, sl, _, _, sends, hl, receives_storeBuf s rx, by rw [completes, h]⟩

end Sys2Proof.Machine
end

section
/-! SUPPORT. The commands that name a register (spec/41_register_access.md R130 to R136): the two refusals they have, which come in the
order R206 gives, and past them the frames of each command's `do…_next` lemma. -/

namespace Sys2Proof.Machine

/-- The other refusals of R203 are of other commands: one that names a register needs no sequence layer and no INIT_DONE, and
has no reserved operand and no payload size. -/
theorem only_address_and_extent_of_regAddress {i : Instr} {a : Byte} (reg : regAddress i = some a) :
    i.needsSequenceLayer = false ∧ hasReservedOperand i = false ∧ needsInit i = false ∧ asksNoPayload i = false := by
  cases i with
  | readReg | writeReg | readRegMulti | writeRegMulti | readBit | writeBit => exact ⟨rfl, rfl, rfl, rfl⟩
  | _ => cases reg

/-- R203 b, d: the address is tested first, then the count, and a command that passes both completes with its effect. -/
theorem exec_of_regAddress {i : Instr} {a : Byte} (reg : regAddress i = some a) (s : State) :
    exec i s =
      if clearBits a s.cfg.addrMask ≠ 0#8 then .refused .addressOutOfRange
      else if s.cfg.bufSize < bufExtent i then .refused .lengthOutOfRange
      else .next (effect s i) := by
  obtain ⟨layer, reserved, init, payload⟩ := only_address_and_extent_of_regAddress reg
  simp only [exec_eq_refusalOf, refusalOf, guard_elim, layer, reserved, init, payload, reg, Option.any_some, bne_iff_ne,
    Bool.false_and, Bool.false_eq_true, if_false, Option.elim_none]

section
variable {i : Instr} {a : Byte} {s t : State} (reg : regAddress i = some a)
include reg

theorem exec_addressOutOfRange (outside : clearBits a s.cfg.addrMask ≠ 0#8) : exec i s = .refused .addressOutOfRange := by
  rw [exec_of_regAddress reg, if_pos outside]

theorem exec_lengthOutOfRange (inside : clearBits a s.cfg.addrMask = 0#8) (long : s.cfg.bufSize < bufExtent i) :
    exec i s = .refused .lengthOutOfRange := by
  rw [exec_of_regAddress reg, if_neg (not_not_intro inside), if_pos long]

theorem exec_completes_of_regAddress (inside : clearBits a s.cfg.addrMask = 0#8) (fits : bufExtent i ≤ s.cfg.bufSize)
    (h : effect s i = t) : exec i s = .next t := by
  rw [exec_of_regAddress reg, if_neg (not_not_intro inside), if_neg (Nat.not_lt.mpr fits), h]

end

/-- Settles O10: past the refusal, the one frame of `doReadReg_next`. -/
theorem readRegReturnsTheByte : Obligations.ReadRegReturnsTheByte := by
  refine ⟨fun w hop => by simp only [decode, hop, BitVec.reduceToNat], fun s addr => ?_⟩
  refine ⟨exec_addressOutOfRange rfl, fun inside => ?_⟩
  obtain ⟨st, b, sl, h⟩ := doReadReg_next addr s
  exact ⟨st, b, sl, exec_completes_of_regAddress rfl inside (Nat.zero_le _) h⟩

/-- Settles O11: past the refusal, the one frame of `doWriteReg_next`. -/
theorem writeRegSendsTheValue : Obligations.WriteRegSendsTheValue := by
  refine ⟨fun w hop => by simp only [decode, hop, BitVec.reduceToNat], fun s addr value => ?_⟩
  refine ⟨exec_addressOutOfRange rfl, fun inside => ?_⟩
  obtain ⟨st, b, sl, h⟩ := doWriteReg_next addr value s
  exact ⟨st, b, sl, exec_completes_of_regAddress rfl inside (Nat.zero_le _) h⟩

/-- Settles O12: past the refusals, the one frame of `doReadRegMulti_next`, whose bytes BUF receives from index 0. -/
theorem readRegMultiFillsBuf : Obligations.ReadRegMultiFillsBuf := by
  refine ⟨fun w hop => by simp only [decode, hop, BitVec.reduceToNat], fun s addr count => ?_⟩
  refine ⟨exec_addressOutOfRange rfl, fun inside long => exec_lengthOutOfRange rfl inside long, fun inside fits => ?_⟩
  obtain ⟨st, rx, sl, hl, h⟩ := doReadRegMulti_next addr count.toNat s
  exact ⟨st, rx, sl, _, hl, receives_storeBuf s rx, exec_completes_of_regAddress rfl inside fits h⟩

/-- Settles O13: past the refusals, the one frame of `doWriteRegMulti_next`, which draws a free value for each unwritten byte. -/
theorem writeRegMultiSendsBuf : Obligations.WriteRegMultiSendsBuf := by
  refine ⟨fun w hop => by simp only [decode, hop, BitVec.reduceToNat], fun s addr count => ?_⟩
  refine ⟨exec_addressOutOfRange rfl, fun inside long => exec_lengthOutOfRange rfl inside long, fun inside fits => ?_⟩
  obtain ⟨tx, st, rx, sl, sends, hl, h⟩ := doWriteRegMulti_next addr count.toNat s
  exact ⟨tx, st, rx, sl, _, sends, hl, exec_completes_of_regAddress rfl inside fits h⟩

/-- Settles O14: past the refusal, the one frame of `doReadBit_next`; a 3-bit index lies inside the byte. -/
theorem readBitReturnsTheBit : Obligations.ReadBitReturnsTheBit := by
  refine ⟨fun w hop => by simp only [decode, hop, BitVec.reduceToNat], fun s addr k => ?_⟩
  refine ⟨exec_addressOutOfRange rfl, fun inside => ?_⟩
  obtain ⟨st, b, sl, h⟩ := doReadBit_next addr k.toNat k.isLt s
  exact ⟨st, b, sl, exec_completes_of_regAddress rfl inside (Nat.zero_le _) h⟩

/-- Settles O15: past the refusal, the two frames of `doWriteBit_next`; the byte written is `assignBit` of the byte read. -/
theorem writeBitChangesOneBit : Obligations.WriteBitChangesOneBit := by
  refine ⟨fun w hop => by simp only [decode, hop, BitVec.reduceToNat], fun s addr k v => ?_⟩
  refine ⟨exec_addressOutOfRange rfl, fun inside => ?_⟩
  obtain ⟨st₁, old, sl₁, st₂, b, sl₂, h⟩ := doWriteBit_next addr k.toNat v s
  exact ⟨st₁, old, sl₁, st₂, assignBit old k.toNat v, b, sl₂, assignBit_getLsbD old k.toNat v,
    exec_completes_of_regAddress rfl inside (Nat.zero_le _) h⟩

end Sys2Proof.Machine
end

section
/-! SUPPORT. The payload and FIFO commands (spec/42_payload_fifo.md R141 to R144): the refusal of a command that needs INIT_DONE,
and past it the one frame of each command's `do…_next` lemma. -/

namespace Sys2Proof.Machine

/-- R203 e: of the four commands that need INIT_DONE, none has an operand, so while the sequence layer is present nothing
but INIT_DONE = 0 refuses them. -/
theorem exec_notInitialized {i : Instr} {s : State} (needs : needsInit i = true) (layer : s.cfg.seqPresent = true)
    (init : s.initDone = false) : exec i s = .refused .notInitialized := by
  rw [exec_eq_refusalOf, refusalOf]
  cases i with
  | writeTxPayload | readRxPayload | transmit | getPayload =>
    simp [hasReservedOperand, regAddress, bufExtent, needsInit, layer, init]
  | _ => cases needs

/-- Settles O16: past the refusal, the one frame of `doWriteTxPayload_next`, and that of `doReadRxPayload_next`, whose bytes
BUF receives from index 0. -/
theorem payloadCommandsMoveTheFixedSize : Obligations.PayloadCommandsMoveTheFixedSize := by
  refine ⟨fun w hop => by simp only [decode, hop, BitVec.reduceToNat],
    fun w hop => by simp only [decode, hop, BitVec.reduceToNat], fun s layer => ?_⟩
  refine ⟨fun init => ⟨exec_notInitialized rfl layer init, exec_notInitialized rfl layer init⟩, fun init => ⟨?write, ?read⟩⟩
  case write =>
    obtain ⟨tx, st, rx, sl, sends, hl, h⟩ := doWriteTxPayload_next s
    exact ⟨tx, st, rx, sl, _, sends, hl, exec_completes (fun _ => layer) rfl (fun _ => init) h⟩
  case read =>
    obtain ⟨tx, st, rx, sl, sends, hl, h⟩ := doReadRxPayload_next s
    exact ⟨tx, st, rx, sl, _, _, sends, hl, receives_storeBuf s rx,
      exec_completes (fun _ => layer) rfl (fun _ => init) h⟩

/-- Settles O17: a flush command has no operand and needs neither the sequence layer nor INIT_DONE, so it completes from every
state, with the one frame of `doFlushTx_next` or `doFlushRx_next`. -/
theorem flushCommandsSendOneByte : Obligations.FlushCommandsSendOneByte := by
  refine ⟨fun w hop => by simp only [decode, hop, BitVec.reduceToNat],
    fun w hop => by simp only [decode, hop, BitVec.reduceToNat], fun s => ⟨?tx, ?rx⟩⟩
  case tx =>
    obtain ⟨st, sl, h⟩ := doFlushTx_next s
    exact ⟨st, sl, exec_completes nofun rfl nofun h⟩
  case rx =>
    obtain ⟨st, sl, h⟩ := doFlushRx_next s
    exact ⟨st, sl, exec_completes nofun rfl nofun h⟩

end Sys2Proof.Machine
end

section
/-! SUPPORT. The status decoder (spec/43_status_decode.md R150, R153, R156) field by field, and the four commands that fetch a
status or diagnostic byte (R151 to R155), each as one explicit next state. -/

namespace Sys2Proof.Machine

/-- R6: bit `j` of the field of bits `hi` down to `lo` is bit `lo + j` of the byte, and the field ends at `hi`. -/
theorem testBit_bitField (b : Byte) (hi lo j : Nat) :
    (bitField b hi lo).testBit j = (decide (lo + j ≤ hi) && b.getLsbD (lo + j)) := by
  have inside : j < hi + 1 - lo ↔ lo + j ≤ hi := by omega
  rw [bitField, Nat.testBit_mod_two_pow, Nat.testBit_div_two_pow, decide_eq_decide.mpr inside, Nat.add_comm j lo]
  rfl

/-- Settles O18: three fields are bits by definition, the fourth is `testBit_bitField`, and the outputs decode the status port. -/
theorem statusByteDecodesByPosition : Obligations.StatusByteDecodesByPosition := by
  intro s b
  obtain ⟨latched, k, port, valid⟩ := statusPort_next s
  exact ⟨rfl, rfl, rfl, testBit_bitField b _ _, latched, k, by simp only [decoderOutputs, port], valid⟩

/-- R153 and R102 in one: the outcome's code by the two bits, transmit success tested first. -/
theorem outcomeCode_txOutcome (c : Config) (b : Byte) :
    outcomeCode (txOutcome c b) = if b.getLsbD c.bitTxDs then 1#2 else if b.getLsbD c.bitMaxRt then 2#2 else 0#2 := by
  rw [txOutcome, apply_ite outcomeCode, apply_ite outcomeCode]
  rfl

/-- Settles O19: each row of the table selects its branch of `outcomeCode_txOutcome`. -/
theorem outcomeTestsSuccessFirst : Obligations.OutcomeTestsSuccessFirst := by
  intro c b
  rw [outcomeCode_txOutcome]
  exact ⟨fun ok => by rw [if_pos ok], fun ok lost => by simp only [ok, lost, if_true, Bool.false_eq_true, if_false],
    fun ok lost => by simp only [ok, lost, Bool.false_eq_true, if_false]⟩

theorem doGetStatus_next (s : State) :
    ∃ st sl, doGetStatus s = { s.afterFrame s.cfg.opcNop .send st [] sl with resData := st, resErr := false } := by
  obtain ⟨st, sl, h⟩ := commandOnly_next s.cfg.opcNop s
  exact ⟨st, sl, by simp only [doGetStatus, h, reportOk]⟩

theorem doGetTxStatus_next (s : State) :
    ∃ st sl, doGetTxStatus s = { s.afterFrame s.cfg.opcNop .send st [] sl with
      resData := st, resCode := outcomeCode (txOutcome s.cfg st), resErr := false } := by
  obtain ⟨st, sl, h⟩ := commandOnly_next s.cfg.opcNop s
  exact ⟨st, sl, by simp only [doGetTxStatus, h, reportOk]⟩

theorem doGetRetxCount_next (s : State) :
    ∃ st b sl, doGetRetxCount s =
      { s.afterFrame (s.cfg.opcRRegister ||| s.cfg.regObserveTx) .recv st [(s.cfg.dummyByte, b)] sl with
        resData := b &&& s.cfg.retxMask, resErr := false } := by
  obtain ⟨st, b, sl, h⟩ := memReadByte_next s.cfg.regObserveTx s
  exact ⟨st, b, sl, by simp only [doGetRetxCount, h, retxCount, reportOk]⟩

/-- Settles O20: nothing refuses GET_STATUS, and its one frame is that of `doGetStatus_next`. -/
theorem getStatusReturnsTheStatusByte : Obligations.GetStatusReturnsTheStatusByte := by
  refine ⟨fun w hop => by simp only [decode, hop, BitVec.reduceToNat], fun s => ?_⟩
  obtain ⟨st, sl, h⟩ := doGetStatus_next s
  exact ⟨st, sl, exec_completes nofun rfl nofun h⟩

/-- Settles O21: nothing refuses GET_TX_STATUS, and RES_CODE in the state of `doGetTxStatus_next` is `outcomeCode_txOutcome`. -/
theorem getTxStatusDecodesAFreshByte : Obligations.GetTxStatusDecodesAFreshByte := by
  refine ⟨fun w hop => by simp only [decode, hop, BitVec.reduceToNat], fun s => ?_⟩
  obtain ⟨st, sl, h⟩ := doGetTxStatus_next s
  rw [outcomeCode_txOutcome] at h
  exact ⟨st, sl, exec_completes nofun rfl nofun h⟩

/-- R155: the masked count is at most the mask, which `Config.Ok` bounds. -/
theorem and_retxMask_le {c : Config} (ok : c.Ok) (b : Byte) : (b &&& c.retxMask).toNat ≤ 15 := by
  rw [BitVec.toNat_and]
  exact Nat.le_trans Nat.and_le_right ok.retx_width

/-- Settles O23: nothing refuses GET_RETX_COUNT, and its one frame is that of `doGetRetxCount_next`. -/
theorem getRetxCountReturnsTheLowBits : Obligations.GetRetxCountReturnsTheLowBits := by
  refine ⟨fun w hop => by simp only [decode, hop, BitVec.reduceToNat], fun s ok => ?_⟩
  obtain ⟨st, b, sl, h⟩ := doGetRetxCount_next s
  exact ⟨st, b, sl, and_retxMask_le ok b, exec_completes nofun rfl nofun h⟩

/-! IS_DATA_READY (R154), for whatever the slave answers: `st` in the first frame, and `b` in the second where there is one. -/

section
variable {s t u : State} {st b : Byte} (status : commandOnly s.cfg.opcNop s = (st, t))
include status

/-- With the data-ready bit set nothing more is read. -/
theorem doIsDataReady_of_set (ready : st.getLsbD s.cfg.bitRxDr = true) :
    doIsDataReady s = { t with resFlag := true, resErr := false } := by
  simp only [doIsDataReady, status, ready, if_true, reportOk]

/-- With the bit clear the FIFO-status byte decides. -/
theorem doIsDataReady_of_clear (clear : st.getLsbD s.cfg.bitRxDr = false)
    (fifo : memReadByte s.cfg.regFifoStatus t = (b, u)) :
    doIsDataReady s = { u with resFlag := !b.getLsbD s.cfg.bitRxEmpty, resErr := false } := by
  simp only [doIsDataReady, status, clear, Bool.false_eq_true, if_false, fifo, reportOk]

end

/-- Settles O22: nothing refuses IS_DATA_READY, and the data-ready bit of the first frame's status byte says whether a second
frame follows. -/
theorem isDataReadyFallsBackToTheFifo : Obligations.IsDataReadyFallsBackToTheFifo := by
  refine ⟨fun w hop => by simp only [decode, hop, BitVec.reduceToNat], fun s => ?_⟩
  obtain ⟨st, sl, status⟩ := commandOnly_next s.cfg.opcNop s
  refine ⟨st, sl, ?_⟩
  cases bit : st.getLsbD s.cfg.bitRxDr with
  | true => exact .inl ⟨rfl, exec_completes nofun rfl nofun (doIsDataReady_of_set status bit)⟩
  | false =>
    obtain ⟨st₂, b, sl₂, fifo⟩ := memReadByte_next s.cfg.regFifoStatus (s.afterFrame s.cfg.opcNop .send st [] sl)
    exact .inr ⟨rfl, st₂, b, sl₂, exec_completes nofun rfl nofun (doIsDataReady_of_clear status bit fifo)⟩

/-- Settles O57: the reference slave's status byte decides, and where its data-ready bit is clear, its FIFO-status byte, which
shows an empty RX FIFO (R74). -/
theorem isDataReadySeesAQueuedPayload : Obligations.IsDataReadySeesAQueuedPayload := by
  intro s r ok hs
  refine ⟨doIsDataReady s, exec_completes nofun rfl nofun rfl, ?_⟩
  have status := commandOnly_reference hs s.cfg.opcNop
  cases bit : r.st.getLsbD s.cfg.bitRxDr with
  | true => simp [doIsDataReady_of_set status bit]
  | false =>
    rw [RefSlave.after_nop ok] at status
    have mask : clearBits s.cfg.regFifoStatus s.cfg.addrMask = 0#8 := ok.regs_in_mask _ (by simp [Config.regAddrs])
    have fifo := memReadByte_reference (s := s.afterFrame s.cfg.opcNop .send r.st [] (.reference { r with frame := [] }))
      ok rfl mask
    have empty := RefSlave.regByte_fifoStatus ok { r with frame := [] }
    rw [doIsDataReady_of_clear status bit fifo]
    simp [← empty]

end Sys2Proof.Machine
end

section
/-! SUPPORT. The lines, the delay and BUF (spec/44_lines_delay_buffer.md R161 to R164): two commands that nothing refuses, and two
that only an index outside BUF refuses, each with its one next state. -/

namespace Sys2Proof.Machine

/-- R163: an index outside BUF is the only refusal. -/
theorem exec_bufWrite (index value : Byte) (s : State) :
    exec (.bufWrite index value) s =
      if s.cfg.bufSize ≤ index.toNat then .refused .lengthOutOfRange else .next (doBufWrite index.toNat value s) := by
  simp only [exec, execBufWrite, noSuchIndex, decide_eq_true_eq]

/-- R164: an index outside BUF is the only refusal. -/
theorem exec_bufRead (index : Byte) (s : State) :
    exec (.bufRead index) s =
      if s.cfg.bufSize ≤ index.toNat then .refused .lengthOutOfRange else .next (doBufRead index.toNat s) := by
  simp only [exec, execBufRead, noSuchIndex, decide_eq_true_eq]

theorem Memory.read_write (m : Memory) (i : Nat) (b : Byte) (j : Nat) :
    (m.write i b).read j = if j = i then some b else m.read j := by
  split
  case isTrue same => rw [same, Memory.read_write_same]
  case isFalse other => exact Memory.read_write_other m b other

/-- R26: a byte nothing has written is free, and reading it moves the counter of draws and does not write it. -/
theorem doBufRead_unwritten {i : Nat} {s : State} (unwritten : s.buf.read i = none) :
    ∃ b, doBufRead i s = { s with resData := b, draws := s.draws + 1, resErr := false } := by
  obtain ⟨b, -, h⟩ := readBuf_next i s
  rw [unwritten] at h
  exact ⟨b, by rw [doBufRead, h]; rfl⟩

theorem doBufRead_written {i : Nat} {s : State} {x : Byte} (written : s.buf.read i = some x) :
    doBufRead i s = { s with resData := x, resErr := false } := by
  obtain ⟨b, hb, h⟩ := readBuf_next i s
  obtain rfl := hb x written
  rw [written] at h
  rw [doBufRead, h]
  rfl

/-- R162: the operand of DELAY_MS has `b` as its high byte and `c` as its low byte. -/
theorem append_toNat (b c : Byte) : (b ++ c).toNat = b.toNat * 256 + c.toNat := by
  rw [BitVec.toNat_append, ← Nat.shiftLeft_add_eq_or_of_lt c.isLt, Nat.shiftLeft_eq]

/-- Settles O26: `exec_bufWrite` refuses or completes, and what BUF then reads is `Memory.read_write`. -/
theorem bufWriteStoresOneByte : Obligations.BufWriteStoresOneByte := by
  refine ⟨fun w hop => by simp only [decode, hop, BitVec.reduceToNat], fun s index value => ?_⟩
  rw [exec_bufWrite]
  refine ⟨fun outside => if_pos outside, fun inside => ?_⟩
  exact ⟨s.buf.write index.toNat value, Memory.read_write s.buf index.toNat value, if_neg (Nat.not_le.mpr inside)⟩

/-- Settles O27: `exec_bufRead` refuses or completes, and a completed read is that of a written or of an unwritten byte. -/
theorem bufReadReturnsTheByte : Obligations.BufReadReturnsTheByte := by
  refine ⟨fun w hop => by simp only [decode, hop, BitVec.reduceToNat], fun s index => ?_⟩
  rw [exec_bufRead]
  refine ⟨fun outside => if_pos outside, fun inside => ?_⟩
  rw [if_neg (Nat.not_le.mpr inside)]
  refine ⟨fun b written => by rw [doBufRead_written written], fun unwritten => ?_⟩
  obtain ⟨b, h⟩ := doBufRead_unwritten unwritten
  exact ⟨b, _, by rw [h]⟩

/-- Settles O24: nothing refuses CE_SET, and its next state is that of `doCeSet_eq`. -/
theorem ceSetDrivesTheEnableLine : Obligations.CeSetDrivesTheEnableLine :=
  ⟨fun w hop => by simp only [decode, hop, BitVec.reduceToNat],
    fun s l => exec_completes nofun rfl nofun (doCeSet_eq l s)⟩

/-- Settles O25: the delay of the word is `append_toNat`, nothing refuses DELAY_MS, and its next state is that of `doDelayMs_eq`. -/
theorem delayOnlyWaits : Obligations.DelayOnlyWaits :=
  ⟨fun w hop => ⟨bField w ++ cField w, by simp only [decode, hop, BitVec.reduceToNat], append_toNat _ _⟩,
    fun s ms => exec_completes nofun rfl nofun (doDelayMs_eq ms.toNat s)⟩

end Sys2Proof.Machine
end

section
/-! SUPPORT. Device configuration (spec/45_device_configuration.md R170 to R174): the acceptance test of SET_CHANNEL, the frames
of SET_ADDRESS, and the eleven steps of INITIALIZE as one run of frames. -/

namespace Sys2Proof.Machine

/-! SET_CHANNEL (R172) -/

theorem channelAccepted_iff {c : Config} {cache channel : Byte} :
    channelAccepted c cache channel = true ↔ channel ≤ c.chMax ∧ channel ≠ cache := by
  simp [channelAccepted]

theorem doSetChannel_accepted {channel : Byte} {s : State}
    (accepted : channel ≤ s.cfg.chMax ∧ channel ≠ s.channelCache) :
    ∃ st b sl, doSetChannel channel s =
      { s.afterFrame (s.cfg.opcWRegister ||| s.cfg.regRfCh) .send st [(channel, b)] sl with
        channelCache := channel, resErr := false } := by
  obtain ⟨st, b, sl, h⟩ := doSetChannel_next channel s
  exact ⟨st, b, sl, by rw [h, if_pos (channelAccepted_iff.mpr accepted)]⟩

theorem doSetChannel_rejected {channel : Byte} {s : State}
    (rejected : ¬(channel ≤ s.cfg.chMax ∧ channel ≠ s.channelCache)) :
    ∃ st b sl, doSetChannel channel s =
      { s.afterFrame (s.cfg.opcWRegister ||| s.cfg.regRfCh) .send st [(s.cfg.chFallback, b)] sl with resErr := true } := by
  obtain ⟨st, b, sl, h⟩ := doSetChannel_next channel s
  exact ⟨st, b, sl, by rw [h, if_neg (mt channelAccepted_iff.mp rejected)]⟩

/-- Settles O30: the acceptance test selects the branch of `doSetChannel_next`, and nothing refuses the command where the
sequence layer is present. -/
theorem setChannelAcceptsOrFallsBack : Obligations.SetChannelAcceptsOrFallsBack := by
  refine ⟨fun w hop => by simp only [decode, hop, BitVec.reduceToNat],
    fun s channel layer => ⟨fun accepted => ?accepted, fun rejected => ?rejected⟩⟩
  case accepted =>
    obtain ⟨st, b, sl, h⟩ := doSetChannel_accepted accepted
    exact ⟨st, b, sl, exec_completes (fun _ => layer) rfl nofun h⟩
  case rejected =>
    obtain ⟨st, b, sl, h⟩ := doSetChannel_rejected rejected
    exact ⟨st, b, sl, exec_completes (fun _ => layer) rfl nofun h⟩

/-- A legal channel is in the cache after SET_CHANNEL, whether it was accepted or rejected as a repeat. -/
theorem doSetChannel_channelCache {channel : Byte} {s : State} (legal : channel ≤ s.cfg.chMax) :
    (doSetChannel channel s).channelCache = channel := by
  by_cases repeated : channel = s.channelCache
  · obtain ⟨st, b, sl, h⟩ := doSetChannel_rejected (s := s) fun accepted => accepted.2 repeated
    rw [h, repeated]
    rfl
  · obtain ⟨st, b, sl, h⟩ := doSetChannel_accepted ⟨legal, repeated⟩
    rw [h]

theorem doSetChannel_hadFrame (channel : Byte) (s : State) : (doSetChannel channel s).hadFrame = true := by
  obtain ⟨st, b, sl, h⟩ := doSetChannel_next channel s
  rw [h]
  split <;> exact hadFrame_afterFrame s _ .send st _ sl

/-- Settles O31: the first command leaves the channel in the cache (`doSetChannel_channelCache`), so the second is rejected. -/
theorem repeatedChannelIsRejected : Obligations.RepeatedChannelIsRejected := by
  intro s channel layer legal
  have cached := doSetChannel_channelCache legal
  have cfg := doSetChannel_cfg channel s
  have hadFrame := doSetChannel_hadFrame channel s
  have first : exec (.setChannel channel) s = .next (doSetChannel channel s) := exec_completes (fun _ => layer) rfl nofun rfl
  generalize doSetChannel channel s = t at *
  obtain ⟨st, b, sl, h⟩ := doSetChannel_rejected (channel := channel) (s := t) fun accepted => accepted.2 cached.symm
  refine ⟨t, _, st, b, first, exec_completes (fun _ => cfg ▸ layer) rfl nofun h, rfl, cached, ?_⟩
  rw [← cfg, ← hadFrame]
  rfl

/-! SET_ADDRESS (R173) -/

theorem doSetAddress_own_next (s : State) :
    ∃ tx st rx sl, s.sendsBuf s.cfg.addrLen tx ∧ rx.length = s.cfg.addrLen ∧ doSetAddress true s =
      { s.afterFrame (s.cfg.opcWRegister ||| s.cfg.regRxAddrP0) .send st (tx.zip rx) sl with
        draws := s.draws + s.unwrittenBelow s.cfg.addrLen, resErr := false } := by
  obtain ⟨tx, st, rx, sl, sends, hl, h⟩ := doWriteRegMulti_next s.cfg.regRxAddrP0 s.cfg.addrLen s
  exact ⟨tx, st, rx, sl, sends, hl, by simp only [doSetAddress, h, if_true, reportOk]⟩

/-- The second frame reads BUF again, so an unwritten byte may differ from what the first one sent (R26). -/
theorem doSetAddress_peer_next (s : State) :
    ∃ tx st rx sl tx₂ st₂ rx₂ sl₂ k, s.sendsBuf s.cfg.addrLen tx ∧ rx.length = s.cfg.addrLen ∧
      s.sendsBuf s.cfg.addrLen tx₂ ∧ rx₂.length = s.cfg.addrLen ∧ doSetAddress false s =
      { (s.afterFrame (s.cfg.opcWRegister ||| s.cfg.regRxAddrP0) .send st (tx.zip rx) sl).afterFrame
          (s.cfg.opcWRegister ||| s.cfg.regTxAddr) .send st₂ (tx₂.zip rx₂) sl₂ with
        draws := k, resErr := false } := by
  obtain ⟨tx, st, rx, sl, sends, hl, h⟩ := doWriteRegMulti_next s.cfg.regRxAddrP0 s.cfg.addrLen s
  obtain ⟨tx₂, st₂, rx₂, sl₂, sends₂, hl₂, h₂⟩ :=
    doWriteRegMulti_next s.cfg.regTxAddr s.cfg.addrLen (doWriteRegMulti s.cfg.regRxAddrP0 s.cfg.addrLen s)
  rw [h] at sends₂
  have frames : doSetAddress false s =
      reportOk (doWriteRegMulti s.cfg.regTxAddr s.cfg.addrLen (doWriteRegMulti s.cfg.regRxAddrP0 s.cfg.addrLen s)) := rfl
  rw [h₂, h] at frames
  exact ⟨tx, st, rx, sl, tx₂, st₂, rx₂, sl₂, _, sends, hl, sends₂, hl₂, frames⟩

/-- Settles O32: nothing refuses SET_ADDRESS where the sequence layer is present, and its frames are those of
`doSetAddress_own_next` and `doSetAddress_peer_next`. -/
theorem setAddressWritesTheAddress : Obligations.SetAddressWritesTheAddress := by
  refine ⟨fun w hop => by simp only [decode, hop, BitVec.reduceToNat], fun s layer => ⟨?own, ?peer⟩⟩
  case own =>
    obtain ⟨tx, st, rx, sl, sends, hl, h⟩ := doSetAddress_own_next s
    exact ⟨tx, st, rx, sl, _, sends, hl, exec_completes (fun _ => layer) rfl nofun h⟩
  case peer =>
    obtain ⟨tx, st, rx, sl, tx₂, st₂, rx₂, sl₂, k, sends, hl, sends₂, hl₂, h⟩ := doSetAddress_peer_next s
    exact ⟨tx, st, rx, sl, tx₂, st₂, rx₂, sl₂, k, sends, hl, sends₂, hl₂, exec_completes (fun _ => layer) rfl nofun h⟩

/-! SET_RF_PARAMETERS (R174) -/

/-- R203 c: the reserved rate is refused, once the controller has the command (R104). -/
theorem exec_setRfParameters_none {s : State} (layer : s.cfg.seqPresent = true) (power : TxPower) :
    exec (.setRfParameters none power) s = .refused .reservedOperand := by
  simp [exec_eq_refusalOf, refusalOf, hasReservedOperand, layer]

/-- Settles O33: past the refusal, the one frame of `doSetRfParameters_next`, whose byte is `rfSetup`. -/
theorem setRfParametersRewritesTheRegister : Obligations.SetRfParametersRewritesTheRegister := by
  refine ⟨fun w hop => by simp only [decode, hop, BitVec.reduceToNat],
    fun s power layer => ⟨exec_setRfParameters_none layer power, fun rate => ?_⟩⟩
  obtain ⟨st, b, sl, h⟩ := doSetRfParameters_next rate power s
  refine ⟨rfSetup s.cfg rate power, dataRateBits s.cfg rate, (powerCode s.cfg power).setWidth 8, st, b, sl, ?_, ?_, rfl,
    exec_completes (fun _ => layer) rfl nofun h⟩
  · cases rate <;> rfl
  · cases power <;> rfl

/-! INITIALIZE (R171) -/

/-- R104, R203 f: the two refusals, and past them the eleven steps. -/
theorem exec_initController (channel payloadSize : Byte) (s : State) :
    exec (.initController channel payloadSize) s =
      if s.cfg.seqPresent = false then .refused .illegalCommand
      else if payloadSize = 0#8 then .refused .payloadSizeZero
      else .next (doInitialize channel payloadSize s) := by
  simp only [exec, execInitialize, Bool.not_eq_true', beq_iff_eq]

theorem clampPayload_of_maxPayload_le {c : Config} {p : Byte} (large : c.maxPayload ≤ p) :
    clampPayload c p = c.maxPayload.setWidth 6 := by
  rw [clampPayload]
  split
  case isTrue small => rw [BitVec.le_antisymm small large]
  case isFalse => rfl

/-- MAX_PAYLOAD is at least 1 (R32), so a size from it up is not the one that R203 f refuses. -/
theorem ne_zero_of_maxPayload_le {c : Config} (ok : c.Ok) {p : Byte} (large : c.maxPayload ≤ p) : p ≠ 0#8 := by
  rintro rfl
  exact absurd ok.maxPayload_pos (Nat.not_le.mpr (Nat.lt_succ_of_le large))

/-- Settles O29: INITIALIZE reads the size only through the clamp and the test for 0, and neither tells `p` from `q`. -/
theorem initializeClampsThePayloadSize : Obligations.InitializeClampsThePayloadSize := by
  intro s channel p q ok hp hq
  have clamp : clampPayload s.cfg p = clampPayload s.cfg q :=
    (clampPayload_of_maxPayload_le hp).trans (clampPayload_of_maxPayload_le hq).symm
  have effects : doInitialize channel p s = doInitialize channel q s := by simp only [doInitialize, clamp]
  simp only [exec_initController, ne_zero_of_maxPayload_le ok hp, ne_zero_of_maxPayload_le ok hq, effects]

/-- R171 steps 1 to 3, up to the first register write. -/
def initStart (payloadSize : Byte) (s : State) : State :=
  { s with
    payloadSize := clampPayload s.cfg payloadSize, initDone := true, channelCache := s.cfg.chSentinel, ce := false
    trace := s.trace ++ [.ce false, .wait (.ms s.cfg.tSettleMs)], resErr := false }

/-- The sequence from there: only RES_ERR is taken from the middle of it. -/
theorem doInitialize_stages (channel payloadSize : Byte) (s : State) :
    doInitialize channel payloadSize s =
      { initFinish (doSetChannel channel (initRegisters (initStart payloadSize s))) with
        resErr := (doSetChannel channel (initRegisters (initStart payloadSize s))).resErr } :=
  doInitialize_eq channel payloadSize s

theorem initStart_hadFrame (payloadSize : Byte) (s : State) : (initStart payloadSize s).hadFrame = s.hadFrame := by
  simp [initStart, State.hadFrame]

/-- With the sentinel in the cache, which is no legal channel (R33), only the range decides. -/
theorem channelAccepted_sentinel {c : Config} (ok : c.Ok) (channel : Byte) :
    channelAccepted c c.chSentinel channel = decide (channel ≤ c.chMax) := by
  rw [Bool.eq_iff_iff, channelAccepted_iff, decide_eq_true_iff]
  refine ⟨And.left, fun legal => ⟨legal, ?_⟩⟩
  rintro rfl
  exact BitVec.not_le.mpr ok.sentinel_outside legal

/-- R171 step 8, after step 2 has forced the sentinel into the cache: one register write, and what it leaves in CHANNEL_CACHE and
RES_ERR. -/
theorem doSetChannel_initRegisters {s : State} (ok : s.cfg.Ok) (forced : s.channelCache = s.cfg.chSentinel) (channel : Byte) :
    doSetChannel channel (initRegisters s) =
      { doWriteReg s.cfg.regRfCh (if channel ≤ s.cfg.chMax then channel else s.cfg.chFallback) (initRegisters s) with
        channelCache := if channel ≤ s.cfg.chMax then channel else s.cfg.chSentinel
        resErr := decide (s.cfg.chMax < channel) } := by
  have cache := (initRegisters_channelCache s).trans forced
  rw [doSetChannel, initRegisters_cfg, cache, channelAccepted_sentinel ok]
  by_cases legal : channel ≤ s.cfg.chMax
  · simp only [legal, decide_true, if_true, decide_eq_false (BitVec.not_lt.mpr legal)]
  · simp only [legal, decide_false, Bool.false_eq_true, if_false, decide_eq_true (BitVec.not_le.mp legal), ← cache,
      doWriteReg_channelCache]

section
variable {s t : State} {fs : List (Byte × List Byte)} {c : Byte} {n : Nat}

/-- Frames neither read nor write CHANNEL_CACHE. -/
theorem RunsFrames.withChannelCache (h : RunsFrames s t fs c n) (k : Byte) :
    RunsFrames { s with channelCache := k } { t with channelCache := k } fs c n := by
  obtain ⟨es, st, sl, rfl, events⟩ := h
  exact ⟨es, st, sl, rfl, events⟩

/-- Frames do not read RES_ERR, and each ends with RES_ERR 0. -/
theorem RunsFrames.of_resErr {e : Bool} (h : RunsFrames { s with resErr := e } t fs c n) : RunsFrames s t fs c n := by
  obtain ⟨es, st, sl, rfl, events⟩ := h
  exact ⟨es, st, sl, rfl, events⟩

end

/-- R171 steps 3 to 11 as one run of frames. CHANNEL_CACHE changes on the way, at step 8; since no frame reads it, the run is that
from a state which has the final value from the start. -/
theorem initSequence_runs {s : State} (ok : s.cfg.Ok) (forced : s.channelCache = s.cfg.chSentinel) (channel : Byte) :
    RunsFrames { s with channelCache := if channel ≤ s.cfg.chMax then channel else s.cfg.chSentinel }
      (initFinish (doSetChannel channel (initRegisters s)))
      ([writeFrame s.cfg s.cfg.regConfig s.cfg.cfgBase, writeFrame s.cfg s.cfg.regSetupRetr s.cfg.retrValue,
          writeFrame s.cfg s.cfg.regRfSetup (rfSetup s.cfg s.dataRate s.txPower),
          writeFrame s.cfg s.cfg.regDynpd s.cfg.dynpdOff, writeFrame s.cfg s.cfg.regFeature s.cfg.featureOff,
          writeFrame s.cfg s.cfg.regStatus s.cfg.clrAll,
          writeFrame s.cfg s.cfg.regRfCh (if channel ≤ s.cfg.chMax then channel else s.cfg.chFallback),
          (s.cfg.opcFlushTx, []), (s.cfg.opcFlushRx, [])] ++
        s.cfg.regRxPw.map (fun a => writeFrame s.cfg a (payloadByte s.payloadSize)) ++
        [writeFrame s.cfg s.cfg.regConfig s.cfg.cfgTx])
      (s.cfg.opcWRegister ||| s.cfg.regConfig) 1 := by
  have cfg := initRegisters_cfg s
  have size := initRegisters_payloadSize s
  obtain ⟨_, registers⟩ := initRegisters_runs s
  rw [doSetChannel_initRegisters ok forced]
  generalize initRegisters s = q at *
  have chan := doWriteReg_runs s.cfg.regRfCh (if channel ≤ s.cfg.chMax then channel else s.cfg.chFallback) q
  have wcfg := chan.cfg.trans cfg
  have wsize := chan.payloadSize.trans size
  generalize doWriteReg s.cfg.regRfCh _ q = w at *
  have start := (registers.trans chan).withChannelCache (if channel ≤ s.cfg.chMax then channel else s.cfg.chSentinel)
  have finish := start.trans (RunsFrames.of_resErr (e := decide (s.cfg.chMax < channel)) (initFinish_runs _))
  have all : s.cfg.regRxPw.take s.cfg.nPipes = s.cfg.regRxPw := List.take_of_length_le (Nat.le_of_eq ok.pipes)
  simpa only [cfg, wcfg, wsize, all, List.append_assoc, List.cons_append, List.nil_append] using finish

/-- Settles O28: the run of `initSequence_runs` from `initStart`, after the two line events, with the RES_ERR of step 8. -/
theorem initializeRunsElevenSteps : Obligations.InitializeRunsElevenSteps := by
  refine ⟨fun w hop => by simp only [decode, hop, BitVec.reduceToNat],
    fun s channel payloadSize ok layer => ⟨?_, fun positive => ?_⟩⟩
  · simp only [exec_initController, layer, Bool.true_eq_false, if_false, if_true]
  · obtain ⟨es, st, sl, after, driving, status, -⟩ := initSequence_runs (s := initStart payloadSize s) ok rfl channel
    refine ⟨clampPayload s.cfg payloadSize, [.ce false, .wait (.ms s.cfg.tSettleMs)] ++ es, st, sl,
      clampPayload_toNat ok.maxPayload_width payloadSize, ?driven, ?lastStatus, ?next⟩
    case driven =>
      have hadFrame := initStart_hadFrame payloadSize s
      rw [driven_append, driving]
      exact congrArg _ (congrArg (drivenFrames s.cfg · _) hadFrame)
    case lastStatus => simpa [lastStatus, statusFrom] using status false none []
    case next =>
      have chan := doSetChannel_initRegisters (s := initStart payloadSize s) ok rfl channel
      have resErr : (doSetChannel channel (initRegisters (initStart payloadSize s))).resErr = decide (s.cfg.chMax < channel) :=
        congrArg State.resErr chan
      simp only [exec_initController, layer, positive, Bool.true_eq_false, if_false]
      rw [doInitialize_stages, resErr, after, ← List.append_assoc]
      rfl

end Sys2Proof.Machine
end

section
/-! SUPPORT. Transmit and receive (spec/46_transmit_receive.md R181 to R185): TRANSMIT and POWER_UP_RX as CE low, one run of
frames, and the line events after it; the other three as the one or two frames of their register and payload commands. -/

namespace Sys2Proof.Machine

/-! A run of frames between line events -/

theorem doCeSet_hadFrame (l : Bool) (s : State) : (doCeSet l s).hadFrame = s.hadFrame := by
  simp [doCeSet_eq, State.hadFrame]

section
variable {s t : State} {fs : List (Byte × List Byte)} {c : Byte} {n : Nat}

/-- The counter of draws moves with reads of BUF, which no frame makes itself. -/
theorem RunsFrames.withDraws (h : RunsFrames s t fs c n) (k : Nat) :
    RunsFrames { s with draws := k } { t with draws := k } fs c n := by
  obtain ⟨es, st, sl, rfl, events⟩ := h
  exact ⟨es, st, sl, rfl, events⟩

/-- CE low and then a run of frames, as one event list: what it drives, and the status byte it ends with, whatever follows. -/
theorem RunsFrames.after_ceLow (h : RunsFrames (doCeSet false s) t fs c n) :
    ∃ es st sl, t = ({ s with ce := false } : State).afterFrames c n st sl es ∧
      driven es = [.ce false] ++ drivenFrames s.cfg s.hadFrame fs ∧
      ∀ ys, lastStatus (es ++ ys) = statusFrom false (some st) ys := by
  obtain ⟨es, st, sl, rfl, driving, status, -⟩ := h
  rw [doCeSet_hadFrame] at driving
  refine ⟨.ce false :: es, st, sl, ?_, ?_, status false none⟩
  · simp [State.afterFrames, doCeSet_eq]
  · rw [driven_cons, driving]
    rfl

end

/-! POWER_UP_TX (R181) -/

/-- Settles O34: nothing refuses the command where the sequence layer is present, and its frame is that of `doWriteReg_next`. -/
theorem powerUpTxWritesTheConfiguration : Obligations.PowerUpTxWritesTheConfiguration := by
  refine ⟨fun w hop => by simp only [decode, hop, BitVec.reduceToNat], fun s layer => ⟨fun ok => ?role, ?frame⟩⟩
  case role => exact ⟨ok.cfgTx_role.1, ok.cfgTx_role.2, ok.crc_kept s.cfg.cfgTx (by simp)⟩
  case frame =>
    obtain ⟨st, b, sl, h⟩ := doWriteReg_next s.cfg.regConfig s.cfg.cfgTx s
    exact ⟨st, b, sl, exec_completes (fun _ => layer) rfl nofun h⟩

/-! TRANSMIT (R182) -/

/-- WRITE_TX_PAYLOAD as a frame: its reads of BUF come before it, so the run starts from the counter of draws they leave. -/
theorem doWriteTxPayload_runs (s : State) :
    ∃ tx k, s.sendsBuf s.payloadSize.toNat tx ∧
      RunsFrames { s with draws := k } (doWriteTxPayload s) [(s.cfg.opcWTxPayload, tx)] s.cfg.opcWTxPayload
        s.payloadSize.toNat := by
  obtain ⟨tx, st, rx, sl, sends, hl, h⟩ := doWriteTxPayload_next s
  refine ⟨tx, s.draws + s.unwrittenBelow s.payloadSize.toNat, sends, ?_⟩
  have frame := RunsFrames.one { s with draws := s.draws + s.unwrittenBelow s.payloadSize.toNat } s.cfg.opcWTxPayload st tx rx sl
    (hl.trans sends.1.symm)
  rw [sends.1] at frame
  rw [h]
  exact frame

/-- R182, the four frames between the line events. -/
def transmitFrames (s : State) : State :=
  doWriteTxPayload (doFlushTx (doWriteReg s.cfg.regStatus s.cfg.clrAll (doPowerUpTx s)))

theorem doTransmit_eq (s : State) :
    doTransmit s = reportOk (doCeSet false (doDelayMs s.cfg.tDwellMs (doCeSet true (transmitFrames (doCeSet false s))))) := rfl

/-- The payload's bytes are read after three frames, which leave BUF and PAYLOAD_SIZE alone; no frame reads the counter of draws,
so the run is that from a state which has the final count from the start. -/
theorem transmitFrames_runs (s : State) :
    ∃ tx k, s.sendsBuf s.payloadSize.toNat tx ∧
      RunsFrames { s with draws := k } (transmitFrames s)
        [writeFrame s.cfg s.cfg.regConfig s.cfg.cfgTx, writeFrame s.cfg s.cfg.regStatus s.cfg.clrAll,
          (s.cfg.opcFlushTx, []), (s.cfg.opcWTxPayload, tx)] s.cfg.opcWTxPayload s.payloadSize.toNat := by
  have config := doWriteReg_runs s.cfg.regConfig s.cfg.cfgTx s
  have status := config.trans (doWriteReg_runs s.cfg.regStatus s.cfg.clrAll _)
  have flush := status.trans (doFlushTx_runs _)
  rw [config.cfg, status.cfg] at flush
  rw [transmitFrames, doPowerUpTx_eq]
  generalize doFlushTx _ = q at flush ⊢
  obtain ⟨tx, k, sends, payload⟩ := doWriteTxPayload_runs q
  rw [State.sendsBuf, flush.buf, flush.payloadSize] at sends
  have frames := (flush.withDraws k).trans payload
  rw [flush.payloadSize, flush.cfg] at frames
  exact ⟨tx, k, sends, frames⟩

/-- Settles O35: the four frames of `transmitFrames_runs` after CE low, and then the three line events of the dwell. -/
theorem transmitPulsesTheEnableLine : Obligations.TransmitPulsesTheEnableLine := by
  refine ⟨fun w hop => by simp only [decode, hop, BitVec.reduceToNat], fun s layer => ?_⟩
  refine ⟨exec_notInitialized rfl layer, fun init => ?_⟩
  obtain ⟨tx, k, sends, frames⟩ := transmitFrames_runs (doCeSet false s)
  obtain ⟨es, st, sl, after, driving, status⟩ := RunsFrames.after_ceLow (s := { s with draws := k }) frames
  refine ⟨tx, es ++ [.ce true, .wait (.ms s.cfg.tDwellMs), .ce false], st, sl, k, sends, ?driven, status _,
    exec_completes (fun _ => layer) rfl (fun _ => init) ?next⟩
  case driven =>
    rw [driven_append, driving]
    rfl
  case next =>
    rw [effect, doTransmit_eq, after]
    simp [State.afterFrames, doCeSet_eq, doDelayMs_eq, reportOk]

/-! POWER_UP_RX (R183) -/

/-- R183, the three frames between the two line events. -/
def powerUpRxFrames (s : State) : State :=
  doWriteReg s.cfg.regConfig s.cfg.cfgRx (doWriteReg s.cfg.regStatus s.cfg.clrAll (doFlushRx s))

theorem doPowerUpRx_eq (s : State) :
    doPowerUpRx s = reportOk (doCeSet true (powerUpRxFrames (doCeSet false s))) := rfl

theorem powerUpRxFrames_runs (s : State) :
    RunsFrames s (powerUpRxFrames s)
      [(s.cfg.opcFlushRx, []), writeFrame s.cfg s.cfg.regStatus s.cfg.clrAll,
        writeFrame s.cfg s.cfg.regConfig s.cfg.cfgRx] (s.cfg.opcWRegister ||| s.cfg.regConfig) 1 := by
  have flush := doFlushRx_runs s
  have status := flush.trans (doWriteReg_runs s.cfg.regStatus s.cfg.clrAll _)
  have config := status.trans (doWriteReg_runs s.cfg.regConfig s.cfg.cfgRx _)
  rw [status.cfg, flush.cfg] at config
  exact config

/-- Settles O36: the three frames of `powerUpRxFrames_runs` after CE low, and then CE high. -/
theorem powerUpRxBeginsListening : Obligations.PowerUpRxBeginsListening := by
  refine ⟨fun w hop => by simp only [decode, hop, BitVec.reduceToNat], fun s layer => ⟨Config.Ok.cfgRx_role, ?_⟩⟩
  obtain ⟨es, st, sl, after, driving, status⟩ := (powerUpRxFrames_runs (doCeSet false s)).after_ceLow
  refine ⟨es ++ [.ce true], st, sl, ?driven, status _, exec_completes (fun _ => layer) rfl nofun ?next⟩
  case driven =>
    rw [driven_append, driving]
    rfl
  case next =>
    rw [effect, doPowerUpRx_eq, after]
    simp [State.afterFrames, doCeSet_eq, reportOk]

/-! GET_PAYLOAD (R184) -/

/-- The payload frame fills BUF, and the second frame leaves it so. -/
theorem doGetPayload_next (s : State) :
    ∃ tx st rx sl st₂ b sl₂, s.sendsBuf s.payloadSize.toNat tx ∧ rx.length = s.payloadSize.toNat ∧ doGetPayload s =
      { (s.afterFrame s.cfg.opcRRxPayload .duplex st (tx.zip rx) sl).afterFrame
          (s.cfg.opcWRegister ||| s.cfg.regStatus) .send st₂ [(s.cfg.clrRxDr, b)] sl₂ with
        draws := s.draws + s.unwrittenBelow s.payloadSize.toNat, buf := s.buf.writeFrom 0 rx, resErr := false } := by
  obtain ⟨tx, st, rx, sl, sends, hl, payload⟩ := doReadRxPayload_next s
  obtain ⟨st₂, b, sl₂, clear⟩ := doWriteReg_next s.cfg.regStatus s.cfg.clrRxDr (doReadRxPayload s)
  refine ⟨tx, st, rx, sl, st₂, b, sl₂, sends, hl, ?_⟩
  rw [doGetPayload, clear, payload]
  rfl

/-- Settles O37: past the refusal, the two frames of `doGetPayload_next`; BIT_RX_DR is the only bit of the value written. -/
theorem getPayloadClearsDataReady : Obligations.GetPayloadClearsDataReady := by
  refine ⟨fun w hop => by simp only [decode, hop, BitVec.reduceToNat], fun s layer => ?_⟩
  refine ⟨exec_notInitialized rfl layer, fun ok j hj => ?bit, fun init => ?frames⟩
  case bit => rw [ok.clrRxDr_mask, bitAt_getLsbD hj]
  case frames =>
    obtain ⟨tx, st, rx, sl, st₂, b, sl₂, sends, hl, h⟩ := doGetPayload_next s
    exact ⟨tx, st, rx, sl, st₂, b, sl₂, _, _, sends, hl, receives_storeBuf s rx,
      exec_completes (fun _ => layer) rfl (fun _ => init) h⟩

/-! POWER_DOWN (R185) -/

/-- Settles O38: CE low, then the two frames of `doWriteBit_next`; the byte written is `assignBit` of the byte read. -/
theorem powerDownClearsThePowerBit : Obligations.PowerDownClearsThePowerBit := by
  refine ⟨fun w hop => by simp only [decode, hop, BitVec.reduceToNat], fun s layer => ?_⟩
  obtain ⟨st₁, old, sl₁, st₂, b, sl₂, h⟩ := doWriteBit_next s.cfg.regConfig s.cfg.bitPwrUp false (doCeSet false s)
  refine ⟨st₁, old, sl₁, st₂, assignBit old s.cfg.bitPwrUp false, b, sl₂, assignBit_getLsbD old s.cfg.bitPwrUp false,
    exec_completes (fun _ => layer) rfl nofun ?_⟩
  rw [effect, doPowerDown, h]
  rfl

end Sys2Proof.Machine
end

section
/-! SUPPORT. Reset, between commands and during one (spec/70_reset_and_hazards.md R230 to R232), and the two statements about it. -/

namespace Sys2Proof.Machine

/-- R232: a slave left unknown is an oracle with no byte ready (log entry 13). -/
theorem Slave.exists_forget_eq_oracle (sl : Slave) : ∃ id, sl.forget = .oracle id [] := by
  cases sl with
  | oracle id _ => exact ⟨id, rfl⟩
  | reference _ => exact ⟨0, rfl⟩

/-! Between two commands (R230, R231) -/

theorem step_rst {s : State} {rest : List Input} (hi : s.inputs = .rst :: rest) :
    step s = .next (rstInput (dropInput s)) := by
  simp [step, hi]

/-- Settles O46: the next state is that of `rstInput_eq`, whose registers are those of `State.resetWith` and whose slave is
forgotten only where BUSY = 1. -/
theorem rstResetsTheController : Obligations.RstResetsTheController := by
  intro s rest hi
  have inputs : (rstInput (dropInput s)).inputs = rest := by rw [rstInput_eq, dropInput, hi, List.tail_cons]
  have slave : (rstInput (dropInput s)).slave = if s.busy then s.slave.forget else s.slave := rfl
  refine ⟨_, step_rst hi, rfl, rfl, rfl, rfl, fun _ => rfl, rfl, rfl, rfl, rfl, rfl, rfl, rfl, rfl, inputs,
    fun idle => ?idle, fun busy => ?busy⟩
  case idle => simp [slave, idle]
  case busy => simpa [slave, busy] using s.slave.exists_forget_eq_oracle

/-! During a command (R232) -/

/-- A word at the head of the inputs does what it does in any state with the same later inputs (R37). -/
theorem step_command_before {s : State} {rest : List Input} (w : CommandWord) (hb : s.busy = false)
    (later : s.inputs.tail = rest) : step { s with inputs := .command w :: rest } = runCommand w s := by
  have accepted : accept { s with inputs := .command w :: rest } = accept s := by rw [accept, accept, later]; rfl
  rw [step_command (s := { s with inputs := .command w :: rest }) hb rfl, runCommand, runCommand, accepted]

theorem step_commandThenRst {s t : State} {w : CommandWord} {k : Nat} {rest : List Input} (hb : s.busy = false)
    (hi : s.inputs = .commandThenRst w k :: rest) (h : runCommand w s = .next t) : step s = .next (abandon k s t) := by
  simp [step, hi, hb, h]

/-- A command cut off after `k` of its events `es`, which left the pins at `p`: `rst` finds these pins and adds its own events. -/
theorem abandon_eq {s t : State} {es : List Event} {k : Nat} {p : Bool × Bool} (htrace : t.trace = s.trace ++ es)
    (hp : replay (es.take k) (s.csn, s.ce) = some p) :
    abandon k s t = { State.resetWith t.cfg with
      slave := t.slave.forget, inputs := t.inputs
      trace := s.trace ++ es.take k ++ resetEvents p.1 p.2, draws := t.draws } := by
  have events : t.trace.drop s.trace.length = es := by rw [htrace, List.drop_left]
  simp only [abandon, assertRst, events, pinsAfter_of_replay hp]

/-- Settles O47: the command's events keep the bus protocol from CSN = 1 on (`Conducts`), so their first `k` lead to definite
pins, and the cut-off run ends in the state of `abandon_eq`. -/
theorem rstDuringACommandTruncatesIt : Obligations.RstDuringACommandTruncatesIt := by
  intro s t w k rest hb hcsn hi whole
  have later : s.inputs.tail = rest := by rw [hi, List.tail_cons]
  have run : runCommand w s = .next t := by rwa [step_command_before w hb later] at whole
  obtain ⟨es, v, hc, rfl⟩ := runCommand_conducts run
  obtain ⟨-, keepsProtocol⟩ := hc.pins hcsn
  obtain ⟨p, hp⟩ := replay_take k keepsProtocol
  obtain ⟨id, forgotten⟩ := v.slave.exists_forget_eq_oracle
  have inputs : v.inputs = rest := by rw [hc.inputs, accept_inputs, later]
  have cut := abandon_eq (s := s) (t := { v with busy := false }) hc.trace (by rw [hcsn]; exact hp)
  refine ⟨es, _, p, id, hc.trace, hp, step_commandThenRst hb hi run, ?_⟩
  rw [cut, forgotten, inputs, hc.cfg, resetEvents, List.append_assoc (s.trace ++ es.take k)]
  rfl

end Sys2Proof.Machine
end
